-- ==== Sys2Proof/Word.lean ====
section
/-! DEFINITION. The two word types of the block. All values are unsigned (spec/00_scope.md R8, R10). -/

namespace Sys2Proof

/-- A Memory cell, an address byte, a data byte, a response byte, the Cursor register: 8 bits (R8). -/
abbrev Byte := BitVec 8

/-- An event word `EV[10:0]`, bit 0 the least significant (30_encoding.md R47). -/
abbrev EventWord := BitVec 11

end Sys2Proof
end

