-- ==== Sys2Proof/Syntax.lean ====
section
/-! DEFINITION. The event operations, one constructor per row of spec/opcode_table.json (30_encoding.md R51, R52). -/

namespace Sys2Proof

/-- The operation an event word names. READ and SPUR keep the bits the block ignores (R53), so that an
encoding loses nothing; no meaning reads them (notes/assumptions/12.md, DESIGN CHOICE, safe). -/
inductive Instr where
  /-- `ADDR a`, AddressPhase: a received byte with `is_first` set; `a = EV[7:0]` is the address byte (R68). -/
  | addr (a : Byte)
  /-- `DATA v`, DataPhase: a received byte with `is_first` clear; `v = EV[7:0]` is the data byte (R69). -/
  | data (v : Byte)
  /-- `READ`, ReadRequested; `ignored = EV[8:0]` carries no information (R70, R53). -/
  | read (ignored : BitVec 9)
  /-- `SPUR w`, Spurious: `w` is the whole word, of a reserved kind (R71, R51). -/
  | spur (w : EventWord)
  deriving DecidableEq, Repr

end Sys2Proof
end

