-- ==== Sys2Proof/WellFormed.lean ====
section
/-! DEFINITION. Which terms of `Instr` spell an event. -/

namespace Sys2Proof

/-- The one check the operand types leave open: the word of a SPUR is of a reserved kind, that is it has bit 10
set (30_encoding.md R58, "w an 11-bit word with bit 10 set"; R54). -/
def Instr.wf : Instr → Bool
  | .addr _ => true
  | .data _ => true
  | .read _ => true
  | .spur w => w.getLsbD 10

end Sys2Proof
end

