-- ==== Sys2Proof/Decode.lean ====
section
/-! DEFINITION. The decoder, the encoder and the opcode map of spec/30_encoding.md R47 to R57. -/

namespace Sys2Proof

/-- Field `K = EV[10:9]`, the event kind (R48). -/
def kindOf (w : EventWord) : BitVec 2 := w.extractLsb' 9 2

/-- Field `F = EV[8]`, is_first, the transaction phase flag (R49). It comes with each event and is stored nowhere
(10_state.md R26). -/
def phaseFlag (w : EventWord) : Bool := w.getLsbD 8

/-- Field `D = EV[7:0]`, the received byte (R50). -/
def byteOf (w : EventWord) : Byte := w.extractLsb' 0 8

/-- The bits a ReadRequested carries without meaning, `EV[8:0]` (R53). -/
def ignoredOf (w : EventWord) : BitVec 9 := w.extractLsb' 0 9

/-- R51: total on the 2048 event words. F alone tells AddressPhase from DataPhase (41_protocol_handler.md R72). -/
def decode (w : EventWord) : Instr :=
  if kindOf w = 0b00#2 then
    if phaseFlag w then .addr (byteOf w) else .data (byteOf w)
  else if kindOf w = 0b01#2 then .read (ignoredOf w)
  else .spur w

/-- Why a number is not decoded. -/
inductive DecodeError where
  /-- The number needs more than 11 bits, so it is no event word (R47). Safe: every event word is decoded. -/
  | notAnEventWord (value : Nat)
  deriving DecidableEq, Repr

/-- The decoder on any number: an event word is decoded, anything wider is rejected by name
(notes/assumptions/13.md, DESIGN CHOICE, safe). -/
def decodeNumber (n : Nat) : Except DecodeError Instr :=
  if n < 2 ^ 11 then .ok (decode (BitVec.ofNat 11 n)) else .error (.notAnEventWord n)

/-- The instruction read from an instruction whose low `nbits` bits are `w` and whose other bits are 0, numbered
as spec/opcode_table.json numbers them. -/
def decodeTableWord (nbits w : Nat) : Option Instr :=
  (decodeNumber (w % 2 ^ nbits)).toOption

/-! The encoder, written from the patterns of R52. -/

/-- The event word of an operation; the canonical words are those with the ignored bits zero (R53). -/
def encode : Instr → EventWord
  | .addr a => 0b001#3 ++ a
  | .data v => 0b000#3 ++ v
  | .read x => 0b01#2 ++ x
  | .spur w => w

/-- A row of the opcode map: a word selects it exactly when `w AND mask` is `pattern` (R52). -/
structure OpcodeRow where
  mnemonic : String
  pattern  : EventWord
  mask     : EventWord
  deriving DecidableEq, Repr

/-- The row of an operation, as R52 lists it. -/
def rowOf : Instr → OpcodeRow
  | .addr _ => ⟨"ADDR", 0x100#11, 0x700#11⟩
  | .data _ => ⟨"DATA", 0x000#11, 0x700#11⟩
  | .read _ => ⟨"READ", 0x200#11, 0x600#11⟩
  | .spur _ => ⟨"SPUR", 0x400#11, 0x400#11⟩

/-- Does the word select the row (R52)? -/
def OpcodeRow.selectedBy (r : OpcodeRow) (w : EventWord) : Bool := w &&& r.mask == r.pattern

end Sys2Proof
end

