-- ==== Sys2Proof/Config.lean ====
section
/-! DEFINITION. The two configuration parameters of the block (spec/00_scope.md R6, R7). The spec leaves no value
of any event's result open, so there is no free value here. -/

namespace Sys2Proof

/-- A configuration, fixed from reset to reset (10_state.md R27). Which ones are legal is said by
`Sys2Proof.Machine.legalConfig`. -/
structure Config where
  /-- `P_N`, the number of one-byte cells (R6). -/
  capacity : Nat
  /-- `P_SEED`, the pre-seeded cells as pairs of offset and byte (R7). -/
  seed     : List Host.Cell
  deriving DecidableEq, Repr

/-- The reference configuration: `P_N = 256` (R6) and no seeds, since P_SEED is OPEN and the empty map is legal (R7).
DESIGN CHOICE, unsafe, notes/assumptions/1.md. -/
def Config.reference : Config := { capacity := 256, seed := [] }

end Sys2Proof
end

