-- ==== Sys2Proof/Machine/State.lean ====
section
/-! DEFINITION. The state, the two reasons a step can stop, and the state after reset. -/

namespace Sys2Proof.Machine

/-- Why a step stops with a fault: the spec's enumeration has exactly one constructor (60_exceptions.md R82). -/
inductive Fault where
  /-- Raised by every event handled in a state whose Cursor is at or above P_N, and again by every later step of the
  run so marked (R80, R83); it records the offending Cursor. Safe: no run from reset meets it. -/
  | addressOverflow (cursor : Byte)
  deriving DecidableEq, Repr

/-- Why a step is refused. -/
inductive Refusal where
  /-- Raised by an arm of `exec` for an instruction that has no meaning yet; no arm raises it. Safe. -/
  | notModelled (mnemonic : String)
  /-- Raised by a restart under a configuration outside the legal ranges, and by any step of a state that holds one:
  the spec refuses such a configuration and has no machine for it (00_scope.md R6, R7; 60_exceptions.md R82;
  70_reset_and_hazards.md R100). Safe: claims about such a configuration cannot be stated of the block. -/
  | illegalConfiguration
  deriving DecidableEq, Repr

/-- What the controller can do to the block between steps (70_reset_and_hazards.md R112). -/
inductive Input where
  /-- Deliver one event word (R112, rows 1 to 4). -/
  | event (w : EventWord)
  /-- Power-on or restart, with the configuration fixed beforehand (R112 row 5, R100, R101). -/
  | restart (cfg : Config)
  deriving DecidableEq, Repr

/-- The register file as the cells that differ from their reset value, addresses strictly rising. -/
abbrev Memory := List Host.Cell

/-- Everything the spec gives the machine (10_state.md R14 and section 5), the parameters its step takes, and the
step's input and output (00_scope.md R13). -/
structure State where
  /-- The configuration `(P_N, P_SEED)` the step takes (R6, R7; notes/assumptions/2.md). -/
  cfg   : Config
  /-- Memory, `Mem` (R16). -/
  mem   : Memory
  /-- The Cursor, `Cur` (R21). -/
  cur   : Byte
  /-- The inputs the controller has yet to deliver, oldest first. The controller's, not the block's: the block has no
  queue (R29; notes/assumptions/3.md). -/
  inbox : List Input
  /-- The output of the last step, `some b` exactly after a READ (R13, 30_encoding.md R55; notes/assumptions/5.md). -/
  out   : Option Byte
  /-- The model fault mark with its reason; not hardware (60_exceptions.md R83; notes/assumptions/6.md). -/
  mark  : Option Fault
  deriving DecidableEq, Repr

/-- The state reset establishes under a configuration: every cell at its reset value (none listed), the Cursor 0, the
fault mark clear (70_reset_and_hazards.md R97). -/
def State.boot (c : Config) : State :=
  { cfg := c, mem := [], cur := 0#8, inbox := [], out := none, mark := none }

/-- The machine right after reset, in the reference configuration (notes/assumptions/1.md). -/
def State.reset : State := State.boot Config.reference

end Sys2Proof.Machine
end

