-- ==== Sys2Proof/Machine/Flags.lean ====
section
/-! DEFINITION. The block has no status flags and no event computes one (spec/10_state.md R27); the phase flag F is a
field of the event word (`phaseFlag`). The one mark the spec gives is the model fault mark (60_exceptions.md R82, R83). -/

namespace Sys2Proof.Machine

/-- The cause code of a fault mark: 0 is "no fault", AddressOverflow is 1 (R82). -/
def faultCode : Option Fault → Nat
  | none => 0
  | some (.addressOverflow _) => 1

/-- The end state of a faulted run: the mark is set, and the faulting step changed nothing and gave no output
(R80, R83). -/
def setMark (r : Fault) (s : State) : State := { s with mark := some r, out := none }

end Sys2Proof.Machine
end

