-- ==== Sys2Proof/Machine/Operands.lean ====
section
/-! DEFINITION. The operand forms of spec/30_encoding.md R56 and the two address computations of the block. -/

namespace Sys2Proof.Machine

/-- The address operand `a = zext(D)`, a natural in 0 .. 255 (R56). -/
def addressOperand (a : Byte) : Nat := a.toNat

/-- The wire address `a` names the cell `a mod P_N`; the reduction is always applied (20_memory.md R31,
40_register_file.md R62). -/
def wireCell (c : Config) (a : Byte) : Byte := BitVec.ofNat 8 (addressOperand a % c.capacity)

/-- `advance(c) = (c + 1) mod P_N`, exact on naturals (40_register_file.md R61, 00_scope.md R11). -/
def advance (c : Config) (cursor : Byte) : Byte := BitVec.ofNat 8 ((cursor.toNat + 1) % c.capacity)

/-- The data operand `v = D`, stored unchanged (R56). -/
def dataOperand (v : Byte) : Byte := v

end Sys2Proof.Machine
end

