-- ==== Sys2Proof/Machine/Ops.lean ====
section
/-! DEFINITION. The operations the meanings share: configuration, Memory, the Cursor, the three register-file
operations of spec/40_register_file.md, the checks before an event, reset, and the taking of an input. -/

namespace Sys2Proof.Machine

/-- What the step of an event or of a restart answers. -/
abbrev Result := Host.Outcome State Fault Refusal

/-! Configuration -/

/-- The ranges of 00_scope.md R6 and R7: `1 <= P_N <= 256`, every seed offset below P_N, no offset seeded twice
(notes/assumptions/11.md). -/
abbrev legalConfig (c : Config) : Prop :=
  (1 ≤ c.capacity ∧ c.capacity ≤ 256) ∧ (∀ e ∈ c.seed, e.1 < c.capacity) ∧ (c.seed.map Prod.fst).Nodup

/-- The reset value of a cell: its seed, else zero (10_state.md R20). -/
def resetByte (c : Config) (i : Nat) : Byte := (c.seed.lookup i).getD 0#8

/-! Memory -/

/-- Insert an entry before the first greater address. -/
def insertCell (i : Nat) (v : Byte) : Memory → Memory
  | [] => [(i, v)]
  | e :: m => if i < e.1 then (i, v) :: e :: m else e :: insertCell i v m

/-- Memory with the byte `v` at `i`: the entry of `i` is dropped, and written anew unless `v` is the reset value
(notes/assumptions/8.md). -/
def storeCell (c : Config) (m : Memory) (i : Nat) (v : Byte) : Memory :=
  let others := m.filter (fun e => e.1 != i)
  if v = resetByte c i then others else insertCell i v others

/-- The canonical form: addresses strictly rising, each of a cell that exists, no entry at its reset value. -/
abbrev Memory.wf (c : Config) (m : Memory) : Prop :=
  m.Pairwise (fun x y => x.1 < y.1) ∧ ∀ e ∈ m, e.1 < c.capacity ∧ e.2 ≠ resetByte c e.1

/-- `Mem[i]` for `i < P_N` (00_scope.md R12): what was last stored, else the reset value. -/
def cellByte (s : State) (i : Nat) : Byte := (s.mem.lookup i).getD (resetByte s.cfg i)

/-- The view of Memory that claims are stated in (20_memory.md R46): a cell's byte, and nothing at an address that
does not exist (R30). -/
def readCell (s : State) (i : Nat) : Option Byte := if i < s.cfg.capacity then some (cellByte s i) else none

/-- `Mem[i] <- v` (00_scope.md R12). -/
def writeCell (i : Nat) (v : Byte) (s : State) : State := { s with mem := storeCell s.cfg s.mem i v }

/-! The register-file operations -/

/-- The Cursor moved to the next cell (40_register_file.md R61). -/
def advanceCursor (s : State) : State := { s with cur := advance s.cfg s.cur }

/-- `set_cursor(a)` (R62): no increment, Memory untouched. -/
def setCursor (a : Byte) (s : State) : State := { s with cur := wireCell s.cfg a }

/-- `read_at_cursor()` (R63): the byte at the Cursor before the increment, and the state after it. -/
def readAtCursor (s : State) : Byte × State := (cellByte s s.cur.toNat, advanceCursor s)

/-- `write_at_cursor(v)` (R64): the cell at the Cursor before the increment is written. -/
def writeAtCursor (v : Byte) (s : State) : State := advanceCursor (writeCell s.cur.toNat v s)

/-! Outputs -/

/-- `respond(b)`: the step's output is the byte (00_scope.md R12, 30_encoding.md R55). -/
def respond (b : Byte) (s : State) : State := { s with out := some b }

/-- `out <- none`: the step has no output (R55). -/
def noResponse (s : State) : State := { s with out := none }

/-! The checks before an event, and reset -/

/-- A state that may step at all: its configuration is legal (60_exceptions.md R82: else it is refused) and the run
is not marked faulted (R83: a faulted run has no further step; the model answers the same fault again; notes/assumptions/6.md, 10.md). -/
def whenRunning (s : State) (k : Result) : Result :=
  if legalConfig s.cfg then
    match s.mark with
    | some r => .fault r
    | none => k
  else .refused .illegalConfiguration

/-- `WF(s)` of 10_state.md R15. Memory has its P_N cells by construction, so what is left is `Cur < P_N`
(41_protocol_handler.md R77). -/
abbrev State.wf (s : State) : Prop := s.cur.toNat < s.cfg.capacity

/-- `raise Fault(AddressOverflow)` with the offending Cursor recorded (60_exceptions.md R80). -/
def raiseAddressOverflow (s : State) : Result := .fault (.addressOverflow s.cur)

/-- The first line of `handle`: an event in a state that is not well-formed raises AddressOverflow, whatever the event
(41_protocol_handler.md R67, 60_exceptions.md R80, R87; notes/assumptions/9.md). Otherwise the event's own line of R77
gives the next state. -/
def handle (s : State) (effect : State → State) : Result :=
  whenRunning s (if s.wf then .next (effect s) else raiseAddressOverflow s)

/-- Nothing delivered: the block stays as it is and gives no output (70_reset_and_hazards.md R112, R95;
notes/assumptions/4.md). -/
def idle (s : State) : Result := whenRunning s (.next (noResponse s))

/-- Reset under the configuration fixed for it: a legal one gives exactly the state of R97 whatever was before (R98),
an illegal one is refused (R100). The inputs after it are the controller's and stay (notes/assumptions/7.md). -/
def restart (c : Config) (s : State) : Result :=
  if legalConfig c then .next { State.boot c with inbox := s.inbox } else .refused .illegalConfiguration

/-! Inputs -/

/-- The next input the controller delivers, and the state with it taken (70_reset_and_hazards.md R103). -/
def nextInput (s : State) : Option (Input × State) :=
  match s.inbox with
  | [] => none
  | i :: rest => some (i, { s with inbox := rest })

/-- The state with an event word as the next input the controller delivers. -/
def deliverNext (w : EventWord) (s : State) : State := { s with inbox := .event w :: s.inbox }

/-- The state with the number `n` delivered next where it is an event word; a wider number is none, and nothing is
delivered (notes/assumptions/13.md). -/
def deliverNumber (n : Nat) (s : State) : State :=
  if n < 2 ^ 11 then deliverNext (BitVec.ofNat 11 n) s else s

end Sys2Proof.Machine
end

