-- ==== Sys2Proof/Machine/Received.lean ====
section
/-! DEFINITION. The received-byte events: AddressPhase and DataPhase (spec/41_protocol_handler.md R68, R69). -/

namespace Sys2Proof.Machine

/-- `ADDR a` (R68): `set_cursor(a)`, no output. -/
def execAddr (a : Byte) (s : State) : Result :=
  handle s (fun s => noResponse (setCursor a s))

/-- `DATA v` (R69): `write_at_cursor(v)`, no output. A seeded cell is written like any other (R18;
notes/assumptions/14.md). -/
def execData (v : Byte) (s : State) : Result :=
  handle s (fun s => noResponse (writeAtCursor (dataOperand v) s))

end Sys2Proof.Machine
end

