-- ==== Sys2Proof/Machine/Requested.lean ====
section
/-! DEFINITION. The read-requested event (spec/41_protocol_handler.md R70, R78). -/

namespace Sys2Proof.Machine

/-- `READ` (R70): `read_at_cursor()`, its byte the response of the same step; EV[8:0] is ignored (R53). The Cursor
advances at the request, whatever the master does with the byte (R78; notes/assumptions/16.md). -/
def execRead (_ignored : BitVec 9) (s : State) : Result :=
  handle s (fun s =>
    let r := readAtCursor s
    respond r.1 r.2)

end Sys2Proof.Machine
end

