-- ==== Sys2Proof/Machine/Spurious.lean ====
section
/-! DEFINITION. The spurious event (spec/41_protocol_handler.md R71, 60_exceptions.md R81). -/

namespace Sys2Proof.Machine

/-- `SPUR w` (R71): ignored; no state change and no output, whatever the word (R53, R54; notes/assumptions/15.md). -/
def execSpur (_word : EventWord) (s : State) : Result :=
  handle s noResponse

end Sys2Proof.Machine
end

