-- ==== Sys2Proof/Machine/Dispatch.lean ====
section
/-! DEFINITION. One arm per event operation (spec/41_protocol_handler.md R67). -/

namespace Sys2Proof.Machine

def exec (i : Instr) (s : State) : Host.Outcome State Fault Refusal :=
  match i with
  | .addr a => Sys2Proof.Machine.execAddr a s
  | .data v => Sys2Proof.Machine.execData v s
  | .read ignored => Sys2Proof.Machine.execRead ignored s
  | .spur w => Sys2Proof.Machine.execSpur w s

end Sys2Proof.Machine
end

