-- ==== Sys2Proof/Machine/Step.lean ====
section
/-! DEFINITION. One step: the next input of the controller is taken and handled (spec/00_scope.md R13,
70_reset_and_hazards.md R103, R112). -/

namespace Sys2Proof.Machine

/-- An event word is decoded and executed; a restart resets; with nothing delivered the block idles. -/
def step (s : State) : Host.Outcome State Fault Refusal :=
  match nextInput s with
  | none => idle s
  | some (.event w, t) => exec (decode w) t
  | some (.restart c, t) => restart c t

/-- The state with the instruction whose low `nbits` bits are `w` as the next event the controller delivers. The block
fetches nothing (20_memory.md R44): this stands for the controller's delivery (notes/assumptions/3.md). -/
def State.withFetchWord (s : State) (nbits w : Nat) : State := deliverNumber (w % 2 ^ nbits) s

end Sys2Proof.Machine
end

