-- ==== Sys2Proof/Machine/Assembler.lean ====
section
/-! DEFINITION. The textual syntax of event streams (spec/30_encoding.md R58), one event a line. A line is a list of
characters. It is notation, no part of the block (92_eei_decisions.md D20). -/

namespace Sys2Proof.Machine

/-- A line's event with the operands as written; READ may carry the response it is annotated with. -/
inductive AsmLine where
  | addr (a : Nat)
  | data (v : Nat)
  | read (response : Option Nat)
  | spur (w : Nat)
  deriving DecidableEq, Repr

/-- Why a line is refused. -/
inductive AsmError where
  /-- The line has none of the four forms. Safe. -/
  | noSuchForm
  /-- The operand spells no event (R58). Safe. -/
  | outOfRange (operand : Nat)
  deriving DecidableEq, Repr

/-- The word of a line, the operands checked (R58); READ is the canonical word, its annotation no part of it. -/
def assemble : AsmLine → Except AsmError EventWord
  | .addr a => if a < 256 then .ok (encode (.addr (BitVec.ofNat 8 a))) else .error (.outOfRange a)
  | .data v => if v < 256 then .ok (encode (.data (BitVec.ofNat 8 v))) else .error (.outOfRange v)
  | .read none => .ok (encode (.read 0#9))
  | .read (some b) => if b < 256 then .ok (encode (.read 0#9)) else .error (.outOfRange b)
  | .spur w => if 1024 ≤ w ∧ w < 2048 then .ok (encode (.spur (BitVec.ofNat 11 w))) else .error (.outOfRange w)

/-- The value of a digit, decimal or hexadecimal (notes/assumptions/18.md). -/
def digitValue (c : Char) : Option Nat :=
  if '0' ≤ c ∧ c ≤ '9' then some (c.toNat - '0'.toNat)
  else if 'a' ≤ c ∧ c ≤ 'f' then some (c.toNat - 'a'.toNat + 10)
  else if 'A' ≤ c ∧ c ≤ 'F' then some (c.toNat - 'A'.toNat + 10)
  else none

/-- The value of digits in a base, from the left. -/
def digitsValue (base : Nat) : Nat → List Char → Option Nat
  | acc, [] => some acc
  | acc, c :: cs =>
    match digitValue c with
    | some d => if d < base then digitsValue base (acc * base + d) cs else none
    | none => none

/-- A number, decimal or 0x-hexadecimal (R58). -/
def parseNumber : List Char → Option Nat
  | [] => none
  | ['0', 'x'] => none
  | '0' :: 'x' :: cs => digitsValue 16 0 cs
  | cs => digitsValue 10 0 cs

/-- The words of a line, `word` the one being read, in reverse. -/
def lineWords (word : List Char) : List Char → List (List Char)
  | [] => if word = [] then [] else [word.reverse]
  | c :: cs =>
    if c = ' ' ∨ c = '\t' then (if word = [] then [] else [word.reverse]) ++ lineWords [] cs
    else lineWords (c :: word) cs

/-- The event of a line; none for a line with a comment alone (R58). That an empty or blank line is no event, rather than
refused, is the model's choice: R58 does not list it (DESIGN CHOICE, safe, notes/assumptions/18.md). -/
def parseLine (line : List Char) : Except AsmError (Option AsmLine) :=
  match lineWords [] (line.takeWhile (· ≠ ';')) with
  | [] => .ok none
  | [['R', 'E', 'A', 'D']] => .ok (some (.read none))
  | [['A', 'D', 'D', 'R'], x] => form .addr x
  | [['D', 'A', 'T', 'A'], x] => form .data x
  | [['S', 'P', 'U', 'R'], x] => form .spur x
  | [['R', 'E', 'A', 'D'], ['-', '>'], x] => form (fun b => .read (some b)) x
  | _ => .error .noSuchForm
where
  form (f : Nat → AsmLine) (x : List Char) : Except AsmError (Option AsmLine) :=
    match parseNumber x with
    | some n => .ok (some (f n))
    | none => .error .noSuchForm

/-- The words a line assembles to: one, or none for a comment or a blank line (notes/assumptions/18.md). -/
def assembleLine (line : List Char) : Except AsmError (List EventWord) :=
  match parseLine line with
  | .ok none => .ok []
  | .ok (some l) => (assemble l).map (fun w => [w])
  | .error e => .error e

end Sys2Proof.Machine
end

