-- ==== Sys2Proof/Machine/Transfers.lean ====
section
/-! DEFINITION. The master's transfers as the controller delivers them: the pseudo-operations of spec/30_encoding.md
R59 and the event mapping of R60 and 70_reset_and_hazards.md R104. They are lists of event words; no rule of the block
depends on them (92_eei_decisions.md D21). -/

namespace Sys2Proof.Machine

/-- A received byte with its phase flag, the source's `Received{byte, is_first}` (R47). -/
def received (isFirst : Bool) (b : Byte) : EventWord := encode (if isFirst then .addr b else .data b)

/-- The canonical word of a read request (R53). -/
def readRequest : EventWord := encode (.read 0#9)

/-- A transfer a master makes. -/
inductive Transfer where
  /-- The bytes a master writes after the slave address. -/
  | write (bytes : List Byte)
  /-- A read of `count` bytes. -/
  | read (count : Nat)
  deriving DecidableEq, Repr

/-- The events of a transfer when the controller does its duty (R104): the first byte of a write has F set and every
later one has it clear, a read makes one request a byte, framing makes no event (R60, informative;
notes/assumptions/17.md). -/
def Transfer.events : Transfer → List EventWord
  | .write [] => []
  | .write (b :: bs) => received true b :: bs.map (received false)
  | .read n => List.replicate n readRequest

/-- `WRITE a, v0, ..., vk`; with no data byte it only sets the Cursor (R59, 41_protocol_handler.md R73). -/
def opWrite (a : Byte) (vs : List Byte) : List EventWord := (Transfer.write (a :: vs)).events

/-- `READN k` (R59). -/
def opReadN (k : Nat) : List EventWord := (Transfer.read k).events

/-- `WRITE_READ a, k`: the restart between the two delivers no event (R59). -/
def opWriteRead (a : Byte) (k : Nat) : List EventWord := opWrite a [] ++ opReadN k

/-- `WRITEC v0, ..., vk`: a controller that delivers a later write's bytes with F clear (R59, 90_conflicts.md C4). -/
def opWriteC (vs : List Byte) : List EventWord := vs.map (received false)

end Sys2Proof.Machine
end

