-- ==== Sys2Proof/Machine/Run.lean ====
section
/-! DEFINITION. A run and its end (spec/70_reset_and_hazards.md R113). -/

namespace Sys2Proof.Machine

/-- The end of a run: the end state, with its fault mark, and the response bytes in order, one per READ (R113). -/
structure RunEnd where
  state     : State
  responses : List Byte
  deriving DecidableEq, Repr

/-- A run: the delivered event words handled in order (R113). The first faulting step ends it with the mark set
(60_exceptions.md R83). A refused configuration has no state and so no run, not even that of no events (R82); under a legal
one the run of no events ends where it began (DESIGN CHOICE, safe, notes/assumptions/20.md). -/
def runEvents : List EventWord → State → Except Refusal RunEnd
  | [], s => if legalConfig s.cfg then .ok ⟨s, []⟩ else .error .illegalConfiguration
  | w :: ws, s =>
    match exec (decode w) s with
    | .next t => (runEvents ws t).map (fun e => { e with responses := t.out.toList ++ e.responses })
    | .fault r => .ok ⟨setMark r s, []⟩
    | .refused r => .error r

end Sys2Proof.Machine
end

