-- ==== Sys2Proof/Safety.lean ====
section
/-! DEFINITION. What claims are stated in: the invariant, a run that ended properly, and the rules of the spec as
functions of plain numbers, independent of the machine's own operations. -/

namespace Sys2Proof.Machine

/-- A state in which an event runs: a legal configuration (R6, R7), no fault recorded (R83), and `WF(s)` (R15). -/
structure State.Ready (s : State) : Prop where
  legal    : legalConfig s.cfg
  unmarked : s.mark = none
  inRange  : s.cur.toNat < s.cfg.capacity

/-- The invariant: ready, and Memory in its canonical form. -/
structure State.Inv (s : State) : Prop where
  ready     : s.Ready
  canonical : Memory.wf s.cfg s.mem

/-- A run ended properly: no fault is recorded. For a run with an event this is R113's own condition
(70_reset_and_hazards.md): the mark is clear exactly if every step, the last among them, returned Next. A run of no events
has no last step, and R113 leaves open whether it has ended properly; the model counts it as proper when unmarked
(DESIGN CHOICE, safe, notes/assumptions/20.md). -/
def RunEnd.Proper (e : RunEnd) : Prop := e.state.mark = none

/-- `k` steps, stopping at the first fault or refusal. -/
def steps : Nat → State → Host.Outcome State Fault Refusal
  | 0, s => .next s
  | k + 1, s =>
    match step s with
    | .next t => steps k t
    | .fault r => .fault r
    | .refused r => .refused r

/-- The bytes the controller takes in the first `k` steps, in order: the output of each step that answers a next state
(70_reset_and_hazards.md R105). -/
def stepOutputs : Nat → State → List Byte
  | 0, _ => []
  | k + 1, s =>
    match step s with
    | .next t => t.out.toList ++ stepOutputs k t
    | .fault _ => []
    | .refused _ => []

/-! The rules on plain numbers -/

/-- A word is a received byte with F set (30_encoding.md R48, R49), by its number. -/
def isAddress (w : EventWord) : Prop := w.toNat / 512 = 0 ∧ w.toNat / 256 % 2 = 1

/-- A word is a received byte with F clear, by its number. -/
def isStore (w : EventWord) : Prop := w.toNat / 512 = 0 ∧ w.toNat / 256 % 2 = 0

/-- A word is a read request, by its number. -/
def isRequest (w : EventWord) : Prop := w.toNat / 512 = 1

/-- The Cursor after an event, by the table of 10_state.md R22. -/
def nextCursor (n cur : Nat) : Instr → Nat
  | .addr a => a.toNat % n
  | .data _ => (cur + 1) % n
  | .read _ => (cur + 1) % n
  | .spur _ => cur

/-- The Cursor after a sequence of events. -/
def cursorAfter (n : Nat) : Nat → List EventWord → Nat
  | cur, [] => cur
  | cur, w :: ws => cursorAfter n (nextCursor n cur (decode w)) ws

/-- The byte of the latest DataPhase to cell `i` in a sequence of events from the Cursor `cur`, or `b` if there was
none (20_memory.md R40). -/
def latestByte (n i : Nat) : Byte → Nat → List EventWord → Byte
  | b, _, [] => b
  | b, cur, w :: ws =>
    let b' := match decode w with
      | .data v => if cur = i then v else b
      | _ => b
    latestByte n i b' (nextCursor n cur (decode w)) ws

/-- Is the operation a read request? -/
def isReadInstr : Instr → Bool
  | .read _ => true
  | _ => false

end Sys2Proof.Machine
end

