-- ==== Sys2Proof/Certificates/Slice0/Obligations.lean ====
section
/-! DEFINITION. The statements for the provers. Memory is read through `readCell`, which gives none at an address that
does not exist; `c % N` and `/` are those of the naturals (spec/00_scope.md R11). -/

open Sys2Proof Sys2Proof.Machine

/-! Encoding -/

/-- R51: the decoder, field by field, on the word's number (`K = EV / 512`, `F = EV / 256 mod 2`, `D = EV mod 256`). The encoding is the spec's own choice
("It is this spec's serialisation", 91_not_in_source.md; D2). -/
def Obligations.DecodeByFields : Prop :=
  ∀ w : EventWord,
    (w.toNat / 512 = 0 → w.toNat / 256 % 2 = 1 → decode w = .addr (BitVec.ofNat 8 (w.toNat % 256))) ∧
    (w.toNat / 512 = 0 → w.toNat / 256 % 2 = 0 → decode w = .data (BitVec.ofNat 8 (w.toNat % 256))) ∧
    (w.toNat / 512 = 1 → ∃ x, decode w = .read x) ∧
    (2 ≤ w.toNat / 512 → decode w = .spur w)

/-- R52: a word selects a row of the opcode map exactly when it decodes to that row's operation; as the operations
are different constructors, exactly one row matches every word. The map is the spec's own choice (D2). -/
def Obligations.OpcodeMapSelectsOneRow : Prop :=
  ∀ w : EventWord,
    (w &&& 0x700#11 = 0x100#11 ↔ ∃ a, decode w = .addr a) ∧
    (w &&& 0x700#11 = 0x000#11 ↔ ∃ v, decode w = .data v) ∧
    (w &&& 0x600#11 = 0x200#11 ↔ ∃ x, decode w = .read x) ∧
    (w &&& 0x400#11 = 0x400#11 ↔ ∃ u, decode w = .spur u)

/-- R53: every word of the READ row acts as the canonical word 0x200, every word of the SPUR row as 0x400.
That the bits are ignored is the spec's own choice (D3). -/
def Obligations.IgnoredBitsChangeNothing : Prop :=
  ∀ (s : State) (w : EventWord),
    (w &&& 0x600#11 = 0x200#11 → exec (decode w) s = exec (decode 0x200#11) s) ∧
    (w &&& 0x400#11 = 0x400#11 → exec (decode w) s = exec (decode 0x400#11) s)

/-- Decoding an encoded well-formed operation gives it back, every operand at every value; and every word decodes to a
well-formed operation that encodes to the word again (R47, R51, R52). That READ keeps its ignored bits, so that no bit
is lost, is the model's choice (notes/assumptions/12.md). -/
def Obligations.DecodeEncodeRoundTrip : Prop :=
  (∀ i : Instr, i.wf = true → decode (encode i) = i) ∧
  ∀ w : EventWord, (decode w).wf = true ∧ encode (decode w) = w

/-- Words of the decoding table of 95_test_vectors.md section 2.1. That READ keeps its ignored bits, here `0x0A5` of the word
`0x2A5`, is the model's choice; the table says only ReadRequested (notes/assumptions/12.md). -/
def Obligations.SampleWordsDecode : Prop :=
  decode 0x1C8#11 = .addr 0xC8#8 ∧ decode 0x0FF#11 = .data 0xFF#8 ∧
  decode 0x2A5#11 = .read 0x0A5#9 ∧ decode 0x5A5#11 = .spur 0x5A5#11 ∧ decode 0x600#11 = .spur 0x600#11

/-- The words of the assembler's lines, and its refusal of an operand out of range (R58, a notation of the spec's own
choice, D20). That the annotation of READ is a byte, and one of 256 or more refused, is the model's choice: R56 gives READ
no operand and R58 no range for the annotation (notes/assumptions/18.md). -/
def Obligations.AssemblerChecksOperands : Prop :=
  ∀ n : Nat,
    (n < 256 → assemble (.addr n) = .ok (0x100#11 ||| BitVec.ofNat 11 n)) ∧
    (n < 256 → assemble (.data n) = .ok (BitVec.ofNat 11 n)) ∧
    (n < 256 → assemble (.read (some n)) = .ok 0x200#11) ∧
    (256 ≤ n → assemble (.addr n) = .error (.outOfRange n) ∧ assemble (.data n) = .error (.outOfRange n) ∧
      assemble (.read (some n)) = .error (.outOfRange n)) ∧
    (1024 ≤ n → n < 2048 → assemble (.spur n) = .ok (BitVec.ofNat 11 n)) ∧
    (n < 1024 ∨ 2048 ≤ n → assemble (.spur n) = .error (.outOfRange n)) ∧
    assemble (.read none) = .ok 0x200#11

/-- In a write transfer as the controller delivers it every byte has its word, in order; the first and no other has F set,
and every word carries its byte (R103, R104). The transfers of R59 are the spec's own choice (D21) and the mapping of R60 is
informative (notes/assumptions/17.md). -/
def Obligations.WriteTransferFlagsFirstByte : Prop :=
  (∀ bytes : List Byte, (Transfer.write bytes).events.length = bytes.length) ∧
  ∀ (bytes : List Byte) (k : Nat) (w : EventWord), (Transfer.write bytes).events[k]? = some w →
    (k = 0 → isAddress w) ∧ (k ≠ 0 → isStore w) ∧ bytes[k]? = some (BitVec.ofNat 8 (w.toNat % 256))

/-! The four events -/

/-- R62 and R68: ADDR sets the Cursor to the address modulo P_N and does nothing else, from every ready state; its words
are those of the row 0x100 / 0x700, the operand in the low 8 bits. -/
def Obligations.AddrSetsCursor : Prop :=
  (∀ (s : State) (a : Byte), s.Ready →
    ∃ t, exec (.addr a) s = .next t ∧ t.cur.toNat = a.toNat % s.cfg.capacity ∧ t.out = none ∧
      (∀ j, readCell t j = readCell s j) ∧ t.cfg = s.cfg ∧ t.inbox = s.inbox ∧ t.mark = none) ∧
  ∀ w : EventWord, w &&& 0x700#11 = 0x100#11 → decode w = .addr (BitVec.ofNat 8 (w.toNat % 256))

/-- R64 and R69: DATA stores its byte at the Cursor, then advances the Cursor modulo P_N, and does nothing else. -/
def Obligations.DataStoresAtCursor : Prop :=
  (∀ (s : State) (v : Byte), s.Ready →
    ∃ t, exec (.data v) s = .next t ∧ readCell t s.cur.toNat = some v ∧
      t.cur.toNat = (s.cur.toNat + 1) % s.cfg.capacity ∧ t.out = none ∧
      (∀ j, j ≠ s.cur.toNat → readCell t j = readCell s j) ∧ t.cfg = s.cfg ∧ t.inbox = s.inbox ∧ t.mark = none) ∧
  ∀ w : EventWord, w &&& 0x700#11 = 0x000#11 → decode w = .data (BitVec.ofNat 8 (w.toNat % 256))

/-- R63 and R70: READ answers the byte at the Cursor before the increment, then advances the Cursor modulo P_N, and does
nothing else, whatever its ignored bits. -/
def Obligations.ReadAnswersByteAtCursor : Prop :=
  (∀ (s : State) (x : BitVec 9), s.Ready →
    ∃ t b, exec (.read x) s = .next t ∧ readCell s s.cur.toNat = some b ∧ t.out = some b ∧
      t.cur.toNat = (s.cur.toNat + 1) % s.cfg.capacity ∧
      (∀ j, readCell t j = readCell s j) ∧ t.cfg = s.cfg ∧ t.inbox = s.inbox ∧ t.mark = none) ∧
  ∀ w : EventWord, w &&& 0x600#11 = 0x200#11 → ∃ x, decode w = .read x

/-- R71: SPUR changes no state and gives no output, for every reserved word and every state it runs in. The
reserved kinds and their invisibility are the spec's own choice (D3, D12). -/
def Obligations.SpurIsIgnored : Prop :=
  (∀ (s : State) (w : EventWord), s.Ready → exec (.spur w) s = .next { s with out := none }) ∧
  ∀ w : EventWord, w &&& 0x400#11 = 0x400#11 → decode w = .spur w

/-- R22's table: the Cursor after each event. -/
def Obligations.CursorFollowsTable : Prop :=
  ∀ (s t : State) (i : Instr), exec i s = .next t →
    t.cur.toNat = nextCursor s.cfg.capacity s.cur.toNat i

/-- Frame of the events that store nothing, ADDR, READ and SPUR, in every state: every cell, the configuration, the
inputs to come and the fault mark are as before, and SPUR leaves the Cursor too (R68, R70, R71). -/
def Obligations.FrameOfNonStoringEvents : Prop :=
  ∀ (s t : State) (i : Instr), (∀ v, i ≠ .data v) → exec i s = .next t →
    (∀ j, readCell t j = readCell s j) ∧ t.cfg = s.cfg ∧ t.inbox = s.inbox ∧ t.mark = s.mark ∧
    (∀ w, i = .spur w → t.cur = s.cur)

/-- Frame of DATA, in every state: every cell but the one at the Cursor, the configuration, the inputs to come and the
fault mark are as before (R69, R76). -/
def Obligations.FrameOfData : Prop :=
  ∀ (s t : State) (v : Byte), exec (.data v) s = .next t →
    (∀ j, j ≠ s.cur.toNat → readCell t j = readCell s j) ∧ t.cfg = s.cfg ∧ t.inbox = s.inbox ∧ t.mark = s.mark

/-- R55: a step that handles an event gives a response exactly when its word decodes to READ. The form of the
response is the spec's own choice (D4). -/
def Obligations.OnlyReadResponds : Prop :=
  ∀ (s t : State) (w : EventWord) (rest : List Input), s.inbox = .event w :: rest → step s = .next t →
    (t.out.isSome = true ↔ isReadInstr (decode w) = true)

/-- After an ADDR nothing is left of the Cursor it replaced (R110, R62): two states that differ only in the Cursor
become one. -/
def Obligations.AddrForgetsCursor : Prop :=
  ∀ (s : State) (a c : Byte), s.Ready → State.Ready { s with cur := c } →
    exec (.addr a) { s with cur := c } = exec (.addr a) s

/-- R31: a wire address selects its cell modulo P_N, the identity for P_N = 256; the addresses `a + k * P_N` within a
byte are one. -/
def Obligations.WireAddressesAlias : Prop :=
  ∀ (s : State) (a : Byte), s.Ready →
    ∃ t, exec (.addr a) s = .next t ∧ t.cur.toNat = a.toNat % s.cfg.capacity ∧
      (s.cfg.capacity = 256 → t.cur = a) ∧
      ∀ (k : Nat) (b : Byte), b.toNat = a.toNat + k * s.cfg.capacity → exec (.addr b) s = .next t

/-- ADDR is idempotent (R37, R62): a second one with the same address leaves the state as it is. -/
def Obligations.AddrIsIdempotent : Prop :=
  ∀ (s : State) (a : Byte), s.Ready → ∃ t, exec (.addr a) s = .next t ∧ exec (.addr a) t = .next t

/-! The step -/

/-- A step with an event next runs exactly the decoded event on the state with the event taken (R67, R103). -/
def Obligations.StepRunsDecodedEvent : Prop :=
  ∀ (s : State) (w : EventWord) (i : Instr) (rest : List Input), s.inbox = .event w :: rest → decode w = i →
    step s = exec i { s with inbox := rest }

/-- With nothing delivered the block stays in its state (R112, R95); that the model's step then clears the output is
the model's choice (notes/assumptions/4.md). -/
def Obligations.IdleStepKeepsState : Prop :=
  ∀ s : State, legalConfig s.cfg → s.mark = none → s.inbox = [] → step s = .next { s with out := none }

/-- Placing an event word and stepping runs its operation on the state as it was (notes/assumptions/3.md). -/
def Obligations.PlacedEventRunsNext : Prop :=
  ∀ (s : State) (nbits w : Nat), w % 2 ^ nbits < 2048 →
    step (s.withFetchWord nbits w) = exec (decode (BitVec.ofNat 11 (w % 2 ^ nbits))) s

/-- R77: the complete step, on the word's number, against the cells and the Cursor as plain numbers. The spec
marks R77 as derived from its rules R61 to R71. -/
def Obligations.CompleteStep : Prop :=
  ∀ (s : State) (w : EventWord) (rest : List Input),
    legalConfig s.cfg → s.mark = none → s.inbox = .event w :: rest →
    (¬ s.cur.toNat < s.cfg.capacity → step s = .fault (.addressOverflow s.cur)) ∧
    (s.cur.toNat < s.cfg.capacity →
      ∃ t, step s = .next t ∧ t.cfg = s.cfg ∧ t.inbox = rest ∧ t.mark = none ∧
        (w.toNat / 512 = 0 → w.toNat / 256 % 2 = 1 →
          (∀ j, readCell t j = readCell s j) ∧ t.cur.toNat = w.toNat % 256 % s.cfg.capacity ∧ t.out = none) ∧
        (w.toNat / 512 = 0 → w.toNat / 256 % 2 = 0 →
          (∀ j, readCell t j = if j = s.cur.toNat then some (BitVec.ofNat 8 (w.toNat % 256)) else readCell s j) ∧
          t.cur.toNat = (s.cur.toNat + 1) % s.cfg.capacity ∧ t.out = none) ∧
        (w.toNat / 512 = 1 →
          (∀ j, readCell t j = readCell s j) ∧ t.cur.toNat = (s.cur.toNat + 1) % s.cfg.capacity ∧
          ∃ b, readCell s s.cur.toNat = some b ∧ t.out = some b) ∧
        (2 ≤ w.toNat / 512 → (∀ j, readCell t j = readCell s j) ∧ t.cur = s.cur ∧ t.out = none))

/-- From every state that meets the invariant a step gives a state that meets it: the Cursor stays in range (R15, R21),
the configuration legal, no fault is recorded, Memory stays canonical (notes/assumptions/8.md). -/
def Obligations.StepKeepsInvariant : Prop :=
  ∀ s t : State, s.Inv → step s = .next t → t.Inv

/-- Every reset state meets the invariant, the machine's own among them (R15, R97). That the machine's own has the reference
configuration, and the canonical form the invariant asks of Memory, are the model's choice (notes/assumptions/1.md,
8.md). -/
def Obligations.ResetMeetsInvariant : Prop :=
  (∀ c : Config, legalConfig c → (State.boot c).Inv) ∧ State.reset.Inv

/-- R19: between resets only a DataPhase changes a cell, and the number of cells never changes. -/
def Obligations.OnlyDataChangesMemory : Prop :=
  ∀ s t : State, (∀ c rest, s.inbox ≠ .restart c :: rest) → step s = .next t →
    t.cfg.capacity = s.cfg.capacity ∧
    ∀ j, readCell t j ≠ readCell s j → ∃ w rest, s.inbox = .event w :: rest ∧ isStore w

/-- Only a restart changes the configuration, to the one it carries (R27, R100). -/
def Obligations.OnlyRestartConfigures : Prop :=
  ∀ s t : State, step s = .next t →
    t.cfg = s.cfg ∨ ∃ c rest, s.inbox = .restart c :: rest ∧ t.cfg = c

/-- Memory in canonical form is determined by what its cells read as (the model's form, notes/assumptions/8.md). -/
def Obligations.CanonicalMemoryIsUnique : Prop :=
  ∀ s t : State, t.cfg = s.cfg → Memory.wf s.cfg s.mem → Memory.wf t.cfg t.mem →
    (∀ j, readCell t j = readCell s j) → t.mem = s.mem

/-! Faults and refusals -/

/-- R79: an event handled in a ready state raises nothing and leaves a ready state. -/
def Obligations.ReadyStateNeverStops : Prop :=
  ∀ (s : State) (i : Instr), s.Ready → ∃ t, exec i s = .next t ∧ t.Ready

/-- R80: an event in a state with the Cursor out of range raises AddressOverflow, which records the Cursor and has code
1, whatever its word; and no run from a reset state gets there. The fault and its code are the spec's own
choice (D11). -/
def Obligations.OutOfRangeCursorFaults : Prop :=
  (∀ s : State, legalConfig s.cfg → s.mark = none → s.cfg.capacity ≤ s.cur.toNat →
    (∀ i, exec i s = .fault (.addressOverflow s.cur)) ∧
    (∀ w rest, s.inbox = .event w :: rest → step s = .fault (.addressOverflow s.cur)) ∧
    faultCode (some (.addressOverflow s.cur)) = 1) ∧
  ∀ (c : Config) (ws : List EventWord) (e : RunEnd), legalConfig c → runEvents ws (State.boot c) = .ok e →
    e.state.cur.toNat < e.state.cfg.capacity

/-- R83: the mark is clear at reset and set by the faulting step, which ends the run with nothing changed; a marked run
takes no further step; a run is marked only if it was launched ill-formed. The mark is the spec's own choice (D11), that
a further step faults again the model's (notes/assumptions/6.md). -/
def Obligations.FaultMarkEndsRun : Prop :=
  (∀ c : Config, (State.boot c).mark = none) ∧
  (∀ (s : State) (w : EventWord) (ws : List EventWord) (r : Fault), exec (decode w) s = .fault r →
    ∃ e, runEvents (w :: ws) s = .ok e ∧ e.state.mark = some r ∧ e.state.mem = s.mem ∧ e.state.cur = s.cur ∧
      e.responses = []) ∧
  (∀ (s : State) (r : Fault), legalConfig s.cfg → s.mark = some r →
    (∀ i, exec i s = .fault r) ∧ ((∀ c rest, s.inbox ≠ .restart c :: rest) → step s = .fault r)) ∧
  (∀ (s : State) (ws : List EventWord) (e : RunEnd), s.mark = none → runEvents ws s = .ok e → e.state.mark ≠ none →
    s.cfg.capacity ≤ s.cur.toNat)

/-- A state that holds a configuration outside the ranges of R6 and R7 has no step: every event is refused. R82 refuses the
configuration and has no state for it; that the model has such states and refuses their events, and that an offset seeded
twice is a ground, are the model's own reading (notes/assumptions/10.md, 11.md). -/
def Obligations.IllegalConfigurationRefused : Prop :=
  ∀ (s : State) (i : Instr),
    s.cfg.capacity = 0 ∨ 256 < s.cfg.capacity ∨ (∃ e ∈ s.cfg.seed, s.cfg.capacity ≤ e.1) ∨
      ¬ (s.cfg.seed.map Prod.fst).Nodup →
    exec i s = .refused .illegalConfiguration

/-! Reset -/

/-- R97 and R98: a restart under a legal configuration gives one state, whatever the state before: every seeded cell its
seed, every other cell zero, the Cursor 0 and in range, the fault mark clear. That a reset is an input and what it leaves of the
inputs and the output is the model's form (notes/assumptions/5.md, 7.md). -/
def Obligations.RestartGivesResetState : Prop :=
  ∀ (c : Config) (rest : List Input), legalConfig c →
    ∃ t, (∀ s : State, s.inbox = .restart c :: rest → step s = .next t) ∧
      t.cfg = c ∧ t.inbox = rest ∧ t.cur = 0#8 ∧ t.cur.toNat < c.capacity ∧ t.mark = none ∧ t.out = none ∧
      (∀ i b, (i, b) ∈ c.seed → readCell t i = some b) ∧
      (∀ i, i < c.capacity → (∀ b, (i, b) ∉ c.seed) → readCell t i = some 0#8)

/-- R100: for seeds that are a map, a restart goes on exactly when `1 <= P_N <= 256` and every seed offset is below P_N;
otherwise it is refused. The range is the spec's own choice (D5, D7). -/
def Obligations.RestartChecksConfiguration : Prop :=
  ∀ (s : State) (c : Config) (rest : List Input), s.inbox = .restart c :: rest → (c.seed.map Prod.fst).Nodup →
    ((1 ≤ c.capacity ∧ c.capacity ≤ 256 ∧ ∀ e ∈ c.seed, e.1 < c.capacity) → ∃ t, step s = .next t) ∧
    (¬ (1 ≤ c.capacity ∧ c.capacity ≤ 256 ∧ ∀ e ∈ c.seed, e.1 < c.capacity) →
      step s = .refused .illegalConfiguration)

/-- The machine's own reset state: the Cursor 0, the mark clear and every unseeded cell zero, as R97 says (R20, R23). Its
configuration, the reference one of R6 with no seed, is the model's choice where the spec leaves the parameters open
(notes/assumptions/1.md), and so are the empty inputs and the absent output (notes/assumptions/3.md, 5.md). -/
def Obligations.ReferenceResetState : Prop :=
  State.reset.cfg.capacity = 256 ∧ State.reset.cfg.seed = [] ∧ State.reset.cur = 0#8 ∧ State.reset.mark = none ∧
  State.reset.inbox = [] ∧ State.reset.out = none ∧
  ∀ i, readCell State.reset i = if i < 256 then some 0#8 else none

/-- R99: the first event after a restart is handled against the reset state; a DATA then writes cell 0. The spec's own
choice (D17). -/
def Obligations.RestartInMidTransfer : Prop :=
  ∀ (s : State) (c : Config) (w : EventWord) (rest : List Input),
    legalConfig c → s.inbox = .restart c :: .event w :: rest →
    steps 2 s = steps 1 { State.boot c with inbox := .event w :: rest } ∧
    ∀ v, decode w = .data v → ∃ t : State, steps 2 s = .next t ∧ readCell t 0 = some v

/-- R74: with no address set since reset, a READ answers cell 0, and a DATA writes cell 0; neither is an error. The
spec marks the part about DATA as derived. -/
def Obligations.FirstAccessUsesCellZero : Prop :=
  ∀ (c : Config) (x : BitVec 9) (v : Byte), legalConfig c →
    (∃ t b, exec (.read x) (State.boot c) = .next t ∧ readCell (State.boot c) 0 = some b ∧ t.out = some b ∧
      t.cur.toNat = 1 % c.capacity) ∧
    (∃ t, exec (.data v) (State.boot c) = .next t ∧ readCell t 0 = some v ∧ t.cur.toNat = 1 % c.capacity)

/-! Sequences of events, from every ready state -/

/-- R40 and R22: events take effect in order, so each cell holds the byte of the latest DataPhase to it, or what it held, the
Cursor is that of R22's table, and the next READ answers the byte at the Cursor. -/
def Obligations.MemoryIsSequential : Prop :=
  ∀ (ws : List EventWord) (s : State), s.Ready →
    ∃ e, runEvents ws s = .ok e ∧
      e.state.cur.toNat = cursorAfter s.cfg.capacity s.cur.toNat ws ∧
      (∀ i b, readCell s i = some b →
        readCell e.state i = some (latestByte s.cfg.capacity i b s.cur.toNat ws)) ∧
      ∀ x b, readCell s (cursorAfter s.cfg.capacity s.cur.toNat ws) = some b →
        ∃ t, exec (.read x) e.state = .next t ∧
          t.out = some (latestByte s.cfg.capacity (cursorAfter s.cfg.capacity s.cur.toNat ws) b s.cur.toNat ws)

/-- A run from a ready state ends properly, with one response for each word that decodes to READ (R113, R79). That the run
of no events, which has no last step to return Next, counts as ended properly is the model's choice
(notes/assumptions/20.md). -/
def Obligations.RunEndsProperly : Prop :=
  ∀ (ws : List EventWord) (s : State), s.Ready →
    ∃ e, runEvents ws s = .ok e ∧ e.Proper ∧
      e.responses.length = ws.countP (fun w => isReadInstr (decode w))

/-- The machine's own steps, with a sequence of events to be delivered, end in the end state of that run (R103,
R113). Its responses are those of StepOutputsAreTheResponses; that the inputs stand in the state is the model's form
(notes/assumptions/3.md). -/
def Obligations.StepsDeliverTheRun : Prop :=
  ∀ (ws : List EventWord) (s : State), s.Ready → s.inbox = [] →
    ∃ e, runEvents ws s = .ok e ∧
      steps ws.length { s with inbox := ws.map Input.event } = .next e.state

/-- The bytes the controller takes step by step over a delivered sequence are the responses of the run, in order (R105,
R113). That the controller's inputs and a step's output stand in the state is the model's form (notes/assumptions/3.md,
5.md). -/
def Obligations.StepOutputsAreTheResponses : Prop :=
  ∀ (ws : List EventWord) (s : State), s.Ready → s.inbox = [] →
    ∃ e, runEvents ws s = .ok e ∧
      stepOutputs ws.length { s with inbox := ws.map Input.event } = e.responses

/-- R33: the k-th data byte after `ADDR a` is written to cell `(a + k) mod P_N` and to no other, and the k-th READ
answers cell `(c + k) mod P_N`, however long the transfer. The spec marks it as derived from R63 and R64 (D13). -/
def Obligations.BurstsAscendModuloCapacity : Prop :=
  (∀ (s : State) (a v : Byte) (vs : List Byte), s.Ready →
    ∃ e e', runEvents (opWrite a vs) s = .ok e ∧ runEvents (opWrite a (vs ++ [v])) s = .ok e' ∧
      readCell e'.state ((a.toNat + vs.length) % s.cfg.capacity) = some v ∧
      ∀ j, j ≠ (a.toNat + vs.length) % s.cfg.capacity → readCell e'.state j = readCell e.state j) ∧
  (∀ (s : State) (k : Nat), s.Ready →
    ∃ e b, runEvents (opReadN (k + 1)) s = .ok e ∧ e.responses.length = k + 1 ∧ e.responses[k]? = some b ∧
      readCell s ((s.cur.toNat + k) % s.cfg.capacity) = some b)

/-- `P_N + 1` data bytes from address 0: the last lands on the first (the wraparound law, 95_test_vectors.md L1-2;
R61, R64). -/
def Obligations.FullWriteWrapsToZero : Prop :=
  ∀ (s : State) (vs : List Byte), s.Ready → vs.length = s.cfg.capacity + 1 →
    ∃ e, runEvents (opWrite 0#8 vs) s = .ok e ∧ e.state.cur.toNat = 1 % s.cfg.capacity ∧
      readCell e.state 0 = vs[s.cfg.capacity]? ∧
      ∀ i, 1 ≤ i → i < s.cfg.capacity → readCell e.state i = vs[i]?

/-- A byte written is read back after a re-address: the law R107 quotes (95_test_vectors.md L1-1), with the Cursor that the
rules of the events leave (R62, R63, R64). -/
def Obligations.ReadBackAfterReaddress : Prop :=
  ∀ (s : State) (a v : Byte), s.Ready →
    ∃ e, runEvents (opWrite a [v] ++ opWrite a [] ++ opReadN 1) s = .ok e ∧ e.responses = [v] ∧
      e.state.cur.toNat = (a.toNat % s.cfg.capacity + 1) % s.cfg.capacity

/-- Without a re-address a READ after a write answers the following cell (R75). -/
def Obligations.ReadAfterWriteContinues : Prop :=
  ∀ (s : State) (a v : Byte), s.Ready →
    ∃ e b, runEvents (opWrite a [v] ++ opReadN 1) s = .ok e ∧ e.responses = [b] ∧
      readCell e.state ((a.toNat % s.cfg.capacity + 1) % s.cfg.capacity) = some b ∧
      (1 < s.cfg.capacity → readCell s ((a.toNat % s.cfg.capacity + 1) % s.cfg.capacity) = some b)

/-- R73: a write with no data byte only sets the Cursor, and a later read continues from it. -/
def Obligations.ZeroDataWriteSelectsCell : Prop :=
  ∀ (s : State) (a : Byte), s.Ready →
    ∃ e e' b, runEvents (opWrite a []) s = .ok e ∧ e.state.cur.toNat = a.toNat % s.cfg.capacity ∧
      (∀ j, readCell e.state j = readCell s j) ∧ e.responses = [] ∧
      runEvents (opWriteRead a 1) s = .ok e' ∧ e'.responses = [b] ∧ readCell s (a.toNat % s.cfg.capacity) = some b
end

