-- ==== Sys2Proof/Laws/State.lean ====
section
/-! SUPPORT. What each update of a state makes of each field, one lemma a field, so that no proof unfolds a record update. -/

namespace Sys2Proof.Machine

@[simp] theorem writeCell_cfg (i : Nat) (v : Byte) (s : State) : (writeCell i v s).cfg = s.cfg := rfl
@[simp] theorem writeCell_mem (i : Nat) (v : Byte) (s : State) : (writeCell i v s).mem = storeCell s.cfg s.mem i v := rfl
@[simp] theorem writeCell_cur (i : Nat) (v : Byte) (s : State) : (writeCell i v s).cur = s.cur := rfl
@[simp] theorem writeCell_inbox (i : Nat) (v : Byte) (s : State) : (writeCell i v s).inbox = s.inbox := rfl
@[simp] theorem writeCell_out (i : Nat) (v : Byte) (s : State) : (writeCell i v s).out = s.out := rfl
@[simp] theorem writeCell_mark (i : Nat) (v : Byte) (s : State) : (writeCell i v s).mark = s.mark := rfl

@[simp] theorem advanceCursor_cfg (s : State) : (advanceCursor s).cfg = s.cfg := rfl
@[simp] theorem advanceCursor_mem (s : State) : (advanceCursor s).mem = s.mem := rfl
@[simp] theorem advanceCursor_cur (s : State) : (advanceCursor s).cur = advance s.cfg s.cur := rfl
@[simp] theorem advanceCursor_inbox (s : State) : (advanceCursor s).inbox = s.inbox := rfl
@[simp] theorem advanceCursor_out (s : State) : (advanceCursor s).out = s.out := rfl
@[simp] theorem advanceCursor_mark (s : State) : (advanceCursor s).mark = s.mark := rfl

@[simp] theorem setCursor_cfg (a : Byte) (s : State) : (setCursor a s).cfg = s.cfg := rfl
@[simp] theorem setCursor_mem (a : Byte) (s : State) : (setCursor a s).mem = s.mem := rfl
@[simp] theorem setCursor_cur (a : Byte) (s : State) : (setCursor a s).cur = wireCell s.cfg a := rfl
@[simp] theorem setCursor_inbox (a : Byte) (s : State) : (setCursor a s).inbox = s.inbox := rfl
@[simp] theorem setCursor_out (a : Byte) (s : State) : (setCursor a s).out = s.out := rfl
@[simp] theorem setCursor_mark (a : Byte) (s : State) : (setCursor a s).mark = s.mark := rfl

@[simp] theorem writeAtCursor_cfg (v : Byte) (s : State) : (writeAtCursor v s).cfg = s.cfg := rfl
@[simp] theorem writeAtCursor_mem (v : Byte) (s : State) : (writeAtCursor v s).mem = storeCell s.cfg s.mem s.cur.toNat v := rfl
@[simp] theorem writeAtCursor_cur (v : Byte) (s : State) : (writeAtCursor v s).cur = advance s.cfg s.cur := rfl
@[simp] theorem writeAtCursor_inbox (v : Byte) (s : State) : (writeAtCursor v s).inbox = s.inbox := rfl
@[simp] theorem writeAtCursor_out (v : Byte) (s : State) : (writeAtCursor v s).out = s.out := rfl
@[simp] theorem writeAtCursor_mark (v : Byte) (s : State) : (writeAtCursor v s).mark = s.mark := rfl

@[simp] theorem respond_cfg (b : Byte) (s : State) : (respond b s).cfg = s.cfg := rfl
@[simp] theorem respond_mem (b : Byte) (s : State) : (respond b s).mem = s.mem := rfl
@[simp] theorem respond_cur (b : Byte) (s : State) : (respond b s).cur = s.cur := rfl
@[simp] theorem respond_inbox (b : Byte) (s : State) : (respond b s).inbox = s.inbox := rfl
@[simp] theorem respond_out (b : Byte) (s : State) : (respond b s).out = some b := rfl
@[simp] theorem respond_mark (b : Byte) (s : State) : (respond b s).mark = s.mark := rfl

@[simp] theorem noResponse_cfg (s : State) : (noResponse s).cfg = s.cfg := rfl
@[simp] theorem noResponse_mem (s : State) : (noResponse s).mem = s.mem := rfl
@[simp] theorem noResponse_cur (s : State) : (noResponse s).cur = s.cur := rfl
@[simp] theorem noResponse_inbox (s : State) : (noResponse s).inbox = s.inbox := rfl
@[simp] theorem noResponse_out (s : State) : (noResponse s).out = none := rfl
@[simp] theorem noResponse_mark (s : State) : (noResponse s).mark = s.mark := rfl

@[simp] theorem setMark_cfg (r : Fault) (s : State) : (setMark r s).cfg = s.cfg := rfl
@[simp] theorem setMark_mem (r : Fault) (s : State) : (setMark r s).mem = s.mem := rfl
@[simp] theorem setMark_cur (r : Fault) (s : State) : (setMark r s).cur = s.cur := rfl
@[simp] theorem setMark_inbox (r : Fault) (s : State) : (setMark r s).inbox = s.inbox := rfl
@[simp] theorem setMark_out (r : Fault) (s : State) : (setMark r s).out = none := rfl
@[simp] theorem setMark_mark (r : Fault) (s : State) : (setMark r s).mark = some r := rfl

@[simp] theorem deliverNext_cfg (w : EventWord) (s : State) : (deliverNext w s).cfg = s.cfg := rfl
@[simp] theorem deliverNext_mem (w : EventWord) (s : State) : (deliverNext w s).mem = s.mem := rfl
@[simp] theorem deliverNext_cur (w : EventWord) (s : State) : (deliverNext w s).cur = s.cur := rfl
@[simp] theorem deliverNext_inbox (w : EventWord) (s : State) : (deliverNext w s).inbox = .event w :: s.inbox := rfl
@[simp] theorem deliverNext_out (w : EventWord) (s : State) : (deliverNext w s).out = s.out := rfl
@[simp] theorem deliverNext_mark (w : EventWord) (s : State) : (deliverNext w s).mark = s.mark := rfl

@[simp] theorem State.boot_cfg (c : Config) : (State.boot c).cfg = c := rfl
@[simp] theorem State.boot_mem (c : Config) : (State.boot c).mem = [] := rfl
@[simp] theorem State.boot_cur (c : Config) : (State.boot c).cur = 0#8 := rfl
@[simp] theorem State.boot_inbox (c : Config) : (State.boot c).inbox = [] := rfl
@[simp] theorem State.boot_out (c : Config) : (State.boot c).out = none := rfl
@[simp] theorem State.boot_mark (c : Config) : (State.boot c).mark = none := rfl

end Sys2Proof.Machine
end

