-- ==== Sys2Proof/Laws/Memory.lean ====
section
/-! SUPPORT. Memory: what a store does to every cell, and that it keeps the canonical form. -/

namespace Sys2Proof.Machine

variable {c : Config} {m : Memory} {s : State} {i j : Nat} {v : Byte}

/-! Lookup in the list of cells -/

theorem lookup_cell_cons (e : Host.Cell) : List.lookup i (e :: m) = if i = e.1 then some e.2 else m.lookup i := by
  obtain ⟨a, b⟩ := e
  by_cases h : i = a
  · simp [h]
  · simp [List.lookup_cons, h, beq_false_of_ne h]

theorem lookup_insertCell_same (h : ∀ e ∈ m, e.1 ≠ i) : (insertCell i v m).lookup i = some v := by
  induction m with
  | nil => simp [insertCell]
  | cons e m ih =>
    have hm := ih fun e' h' => h e' (by simp [h'])
    simp only [insertCell]
    split
    · simp
    · rw [lookup_cell_cons, if_neg (h e (by simp)).symm, hm]

theorem lookup_insertCell_other (h : j ≠ i) : (insertCell i v m).lookup j = m.lookup j := by
  induction m with
  | nil => simp [insertCell, lookup_cell_cons, h]
  | cons e m ih =>
    simp only [insertCell]
    split
    · simp [lookup_cell_cons, h]
    · simp [lookup_cell_cons, ih]

theorem lookup_others_same : (m.filter (fun e => e.1 != i)).lookup i = none := by
  induction m with
  | nil => rfl
  | cons e m ih =>
    by_cases he : e.1 = i
    · simpa [he] using ih
    · rw [List.filter_cons_of_pos (by simpa using he), lookup_cell_cons, if_neg (Ne.symm he), ih]

theorem lookup_others_other (h : j ≠ i) : (m.filter (fun e => e.1 != i)).lookup j = m.lookup j := by
  induction m with
  | nil => rfl
  | cons e m ih =>
    by_cases he : e.1 = i
    · rw [List.filter_cons_of_neg (by simpa using he), ih, lookup_cell_cons, if_neg (he ▸ h)]
    · rw [List.filter_cons_of_pos (by simpa using he), lookup_cell_cons, lookup_cell_cons, ih]

/-! A store, read back -/

/-- The stored cell reads as the stored byte, in every memory, canonical or not. -/
theorem storeCell_same : ((storeCell c m i v).lookup i).getD (resetByte c i) = v := by
  simp only [storeCell]
  split
  · rename_i h; simp [lookup_others_same, h]
  · rw [lookup_insertCell_same (by simp)]; rfl

/-- Every other cell reads as before. -/
theorem storeCell_other (h : j ≠ i) : (storeCell c m i v).lookup j = m.lookup j := by
  simp only [storeCell]
  split <;> simp [lookup_insertCell_other h, lookup_others_other h]

@[simp] theorem cellByte_writeCell_same : cellByte (writeCell i v s) i = v := storeCell_same

theorem cellByte_writeCell_other (h : j ≠ i) : cellByte (writeCell i v s) j = cellByte s j := by
  simp [cellByte, storeCell_other h]

/-- A cell's byte depends on the configuration and Memory alone. -/
theorem cellByte_congr {t : State} (hc : t.cfg = s.cfg) (hm : t.mem = s.mem) : cellByte t i = cellByte s i := by
  simp [cellByte, hc, hm]

theorem readCell_congr {t : State} (hc : t.cfg = s.cfg) (hm : t.mem = s.mem) : readCell t i = readCell s i := by
  simp [readCell, cellByte_congr hc hm, hc]

theorem readCell_writeCell :
    readCell (writeCell i v s) j = if j = i ∧ i < s.cfg.capacity then some v else readCell s j := by
  by_cases h : j = i
  · subst h; by_cases hj : j < s.cfg.capacity <;> simp [readCell, hj]
  · simp [readCell, h, cellByte_writeCell_other h]

theorem readCell_writeAtCursor :
    readCell (writeAtCursor v s) j =
      if j = s.cur.toNat ∧ s.cur.toNat < s.cfg.capacity then some v else readCell s j := by
  rw [← readCell_writeCell]; exact readCell_congr rfl rfl

/-- Right after reset a cell reads as its reset value. -/
@[simp] theorem cellByte_boot : cellByte (State.boot c) i = resetByte c i := rfl

/-! The canonical form -/

theorem mem_insertCell {e : Host.Cell} : e ∈ insertCell i v m ↔ e = (i, v) ∨ e ∈ m := by
  induction m with
  | nil => simp [insertCell]
  | cons a m ih =>
    simp only [insertCell]
    split
    · simp
    · simp only [List.mem_cons, ih]; tauto

theorem insertCell_rising (h : m.Pairwise (fun x y => x.1 < y.1)) (hi : ∀ e ∈ m, e.1 ≠ i) :
    (insertCell i v m).Pairwise (fun x y => x.1 < y.1) := by
  induction m with
  | nil => simp [insertCell]
  | cons e m ih =>
    obtain ⟨he, hm⟩ := List.pairwise_cons.1 h
    simp only [insertCell]
    split
    · rename_i hlt
      refine List.pairwise_cons.2 ⟨fun y hy => ?_, h⟩
      rcases List.mem_cons.1 hy with rfl | hy
      · exact hlt
      · exact hlt.trans (he y hy)
    · rename_i hlt
      refine List.pairwise_cons.2 ⟨fun y hy => ?_, ih hm fun y hy => hi y (by simp [hy])⟩
      rcases mem_insertCell.1 hy with rfl | hy
      · exact lt_of_le_of_ne (Nat.le_of_not_lt hlt) (hi e (by simp))
      · exact he y hy

/-- A store to a cell that exists keeps the canonical form. -/
theorem storeCell_wf (h : Memory.wf c m) (hi : i < c.capacity) : Memory.wf c (storeCell c m i v) := by
  have hothers : Memory.wf c (m.filter (fun e => e.1 != i)) :=
    ⟨h.1.filter _, fun e he => h.2 e (List.mem_filter.1 he).1⟩
  simp only [storeCell]
  split
  · exact hothers
  · rename_i hv
    refine ⟨insertCell_rising hothers.1 (by simp), fun e he => ?_⟩
    rcases mem_insertCell.1 he with rfl | he
    · exact ⟨hi, hv⟩
    · exact hothers.2 e he

theorem writeCell_wf (h : Memory.wf s.cfg s.mem) (hi : i < s.cfg.capacity) :
    Memory.wf (writeCell i v s).cfg (writeCell i v s).mem :=
  storeCell_wf h hi

theorem writeAtCursor_wf (h : Memory.wf s.cfg s.mem) (hi : s.cur.toNat < s.cfg.capacity) :
    Memory.wf (writeAtCursor v s).cfg (writeAtCursor v s).mem :=
  storeCell_wf h hi

/-- Memory after any reset is canonical. -/
theorem boot_memory_wf : Memory.wf (State.boot c).cfg (State.boot c).mem :=
  ⟨.nil, by simp⟩

theorem reset_memory_wf : Memory.wf State.reset.cfg State.reset.mem := boot_memory_wf

/-- In canonical form an entry is what a lookup of its address finds. -/
theorem lookup_eq_of_mem (h : m.Pairwise (fun x y => x.1 < y.1)) (hm : (i, v) ∈ m) : m.lookup i = some v := by
  induction m with
  | nil => simp at hm
  | cons e m ih =>
    obtain ⟨he, hrest⟩ := List.pairwise_cons.1 h
    rcases List.mem_cons.1 hm with rfl | hm
    · simp
    · rw [lookup_cell_cons, if_neg (he _ hm).ne', ih hrest hm]

end Sys2Proof.Machine
end

