-- ==== Sys2Proof/Laws/Operands.lean ====
section
/-! SUPPORT. The two address computations give, under a legal configuration, exactly the naturals the spec's formulas
give, and they are cells that exist. -/

namespace Sys2Proof.Machine

variable {c : Config}

theorem mod_capacity_lt (h : legalConfig c) (n : Nat) : n % c.capacity < c.capacity :=
  Nat.mod_lt n h.1.1

/-- No remainder modulo the capacity is lost in the 8 bits of the Cursor. -/
theorem toNat_ofNat_mod (h : legalConfig c) (n : Nat) : (BitVec.ofNat 8 (n % c.capacity)).toNat = n % c.capacity := by
  have := mod_capacity_lt h n
  have := h.1.2
  rw [BitVec.toNat_ofNat]
  exact Nat.mod_eq_of_lt (by omega)

theorem advance_toNat (h : legalConfig c) (cur : Byte) : (advance c cur).toNat = (cur.toNat + 1) % c.capacity :=
  toNat_ofNat_mod h _

theorem wireCell_toNat (h : legalConfig c) (a : Byte) : (wireCell c a).toNat = a.toNat % c.capacity :=
  toNat_ofNat_mod h _

theorem advance_lt (h : legalConfig c) (cur : Byte) : (advance c cur).toNat < c.capacity :=
  advance_toNat h cur ▸ mod_capacity_lt h _

theorem wireCell_lt (h : legalConfig c) (a : Byte) : (wireCell c a).toNat < c.capacity :=
  wireCell_toNat h a ▸ mod_capacity_lt h _

end Sys2Proof.Machine
end

