-- ==== Sys2Proof/Laws/Ops.lean ====
section
/-! SUPPORT. What each shared operation can answer, said once: callers cite these and unfold nothing. -/

namespace Sys2Proof.Machine

variable {s t : State} {k : Result} {f : State → State} {r : Fault}

/-- A running state answers its continuation. -/
theorem whenRunning_running (hl : legalConfig s.cfg) (hm : s.mark = none) : whenRunning s k = k := by
  rw [whenRunning, if_pos hl, hm]

/-- All that `whenRunning` can answer with a next state. -/
theorem whenRunning_next (h : whenRunning s k = .next t) : legalConfig s.cfg ∧ s.mark = none ∧ k = .next t := by
  unfold whenRunning at h
  split at h
  · split at h
    · cases h
    · exact ⟨‹_›, ‹_›, h⟩
  · cases h

/-- In a ready state an event has its effect. -/
theorem handle_ready (h : s.Ready) : handle s f = .next (f s) := by
  rw [handle, whenRunning_running h.legal h.unmarked, if_pos h.inRange]

/-- An event answers a next state only in a ready state, and then the effect's. -/
theorem handle_next (h : handle s f = .next t) : s.Ready ∧ t = f s := by
  obtain ⟨hl, hm, hk⟩ := whenRunning_next h
  split at hk
  · exact ⟨⟨hl, hm, ‹_›⟩, by cases hk; rfl⟩
  · cases hk

/-- All that an event can fault with. -/
theorem handle_fault (h : handle s f = .fault r) :
    legalConfig s.cfg ∧
      (s.mark = some r ∨ s.mark = none ∧ s.cfg.capacity ≤ s.cur.toNat ∧ r = .addressOverflow s.cur) := by
  unfold handle whenRunning at h
  split at h
  · split at h
    · cases h; exact ⟨‹_›, .inl ‹_›⟩
    · split at h
      · cases h
      · cases h; exact ⟨‹_›, .inr ⟨‹_›, by omega, rfl⟩⟩
  · cases h

theorem handle_marked (hl : legalConfig s.cfg) (hm : s.mark = some r) : handle s f = .fault r := by
  rw [handle, whenRunning, if_pos hl, hm]

theorem handle_outOfRange (hl : legalConfig s.cfg) (hm : s.mark = none) (hc : s.cfg.capacity ≤ s.cur.toNat) :
    handle s f = .fault (.addressOverflow s.cur) := by
  rw [handle, whenRunning_running hl hm, if_neg (by omega)]; rfl

theorem handle_illegal (hl : ¬ legalConfig s.cfg) : handle s f = .refused .illegalConfiguration := by
  rw [handle, whenRunning, if_neg hl]

/-- The idle step answers a next state only in a running state, and then the state without an output. -/
theorem idle_next (h : idle s = .next t) : legalConfig s.cfg ∧ s.mark = none ∧ t = noResponse s := by
  obtain ⟨hl, hm, hk⟩ := whenRunning_next h
  exact ⟨hl, hm, by cases hk; rfl⟩

/-- A restart answers a next state only under a legal configuration, and then the reset state. -/
theorem restart_next {c : Config} (h : restart c s = .next t) :
    legalConfig c ∧ t = { State.boot c with inbox := s.inbox } := by
  unfold restart at h
  split at h
  · exact ⟨‹_›, by cases h; rfl⟩
  · cases h

/-- The state change of each event, as one function. -/
def effectOf : Instr → State → State
  | .addr a, s => noResponse (setCursor a s)
  | .data v, s => noResponse (writeAtCursor v s)
  | .read _, s => respond (cellByte s s.cur.toNat) (advanceCursor s)
  | .spur _, s => noResponse s

/-- Every event is its effect behind the one check. -/
theorem exec_eq_handle (i : Instr) : exec i s = handle s (effectOf i) := by
  cases i <;> rfl

/-- Everything `exec` can do when it answers a next state. -/
theorem exec_next {i : Instr} (h : exec i s = .next t) : s.Ready ∧ t = effectOf i s :=
  handle_next (exec_eq_handle i ▸ h)

/-- In a ready state every event has its effect. -/
theorem exec_ready (i : Instr) (h : s.Ready) : exec i s = .next (effectOf i s) := by
  rw [exec_eq_handle, handle_ready h]

/-- No event touches the configuration, the inputs to come, or the fault mark. -/
theorem effectOf_rest (i : Instr) :
    (effectOf i s).cfg = s.cfg ∧ (effectOf i s).inbox = s.inbox ∧ (effectOf i s).mark = s.mark := by
  cases i <;> exact ⟨rfl, rfl, rfl⟩

/-! The step, by its next input -/

theorem step_idle (h : s.inbox = []) : step s = idle s := by simp [step, nextInput, h]

theorem step_event {w : EventWord} {rest : List Input} (h : s.inbox = .event w :: rest) :
    step s = exec (decode w) { s with inbox := rest } := by simp [step, nextInput, h]

theorem step_restart {c : Config} {rest : List Input} (h : s.inbox = .restart c :: rest) :
    step s = restart c { s with inbox := rest } := by simp [step, nextInput, h]

end Sys2Proof.Machine
end

