-- ==== Sys2Proof/Laws/PerInstr.lean ====
section
/-! SUPPORT. Statements for all instructions, one lemma a constructor. -/

namespace Sys2Proof.Laws.TableRow

/-- The word of a well-formed operation selects the operation's own row of the opcode map (30_encoding.md R52). -/
def Statement (i : Sys2Proof.Instr) : Prop :=
  i.wf = true → (Sys2Proof.rowOf i).selectedBy (Sys2Proof.encode i) = true

theorem addr (a : Sys2Proof.Byte) : Statement (.addr a) := by
  intro _
  revert a; decide

theorem data (v : Sys2Proof.Byte) : Statement (.data v) := by
  intro _
  revert v; decide

theorem read (ignored : BitVec 9) : Statement (.read ignored) := by
  intro _
  revert ignored; decide

theorem spur (w : Sys2Proof.EventWord) : Statement (.spur w) := by
  intro h
  simp only [Sys2Proof.OpcodeRow.selectedBy, Sys2Proof.rowOf, Sys2Proof.encode, beq_iff_eq]
  ext k hk
  have h10 : w[10] = true := by simpa [Sys2Proof.Instr.wf, BitVec.getLsbD_eq_getElem] using h
  interval_cases k <;> simp [h10]

end Sys2Proof.Laws.TableRow
end

