-- ==== Sys2Proof/Laws/Run.lean ====
section
/-! SUPPORT. Sequences of events and of steps, unfolded one event or step at a time. -/

namespace Sys2Proof.Machine

variable {s t : State} {w : EventWord} {ws vs : List EventWord}

/-- Under a legal configuration the run of no events ends where it began. -/
theorem runEvents_nil (h : legalConfig s.cfg) : runEvents [] s = .ok ⟨s, []⟩ := by
  rw [runEvents, if_pos h]

/-- From a ready state the first event has its effect and its output comes first. -/
theorem runEvents_cons (h : s.Ready) :
    runEvents (w :: ws) s =
      (runEvents ws (effectOf (decode w) s)).map
        (fun e => { e with responses := (effectOf (decode w) s).out.toList ++ e.responses }) := by
  rw [runEvents, exec_ready _ h]

/-- A faulting first event ends the run with the mark set. -/
theorem runEvents_fault {r : Fault} (h : exec (decode w) s = .fault r) :
    runEvents (w :: ws) s = .ok ⟨setMark r s, []⟩ := by
  rw [runEvents, h]

/-- An illegal configuration has no run. -/
theorem runEvents_illegal (h : ¬ legalConfig s.cfg) : runEvents ws s = .error .illegalConfiguration := by
  cases ws with
  | nil => rw [runEvents, if_neg h]
  | cons w ws => rw [runEvents, exec_eq_handle, handle_illegal h]

theorem steps_next {k : Nat} (h : step s = .next t) : steps (k + 1) s = steps k t := by
  rw [steps, h]

theorem stepOutputs_next {k : Nat} (h : step s = .next t) :
    stepOutputs (k + 1) s = t.out.toList ++ stepOutputs k t := by
  rw [stepOutputs, h]

/-- The words of a transfer decode to the events they are for. -/
theorem decode_received (f : Bool) (b : Byte) : decode (received f b) = if f then .addr b else .data b := by
  revert f b; decide

theorem decode_readRequest : decode readRequest = .read 0#9 := by decide

end Sys2Proof.Machine
end

