-- ==== Sys2Proof/Tests/Slice0.lean ====
section
/-! SUPPORT. Small tests, their expected results from spec/95_test_vectors.md, and for every statement that has
hypotheses a state and operands that meet them. -/

namespace Sys2Proof.Tests

open Sys2Proof Sys2Proof.Machine

/-- A small state: P_N = `n`, seeds, Memory, Cursor. -/
def small (n : Nat) (seed : List Host.Cell) (mem : Memory) (cur : Byte) : State :=
  { State.boot { capacity := n, seed := seed } with mem := mem, cur := cur }

/-- The next state, where there is one. -/
def nextOf : Host.Outcome State Fault Refusal → Option State
  | .next t => some t
  | _ => none

/-- The fault, where there is one. -/
def faultOf : Host.Outcome State Fault Refusal → Option Fault
  | .fault r => some r
  | _ => none

/-- The refusal, where there is one. -/
def refusalOf : Host.Outcome State Fault Refusal → Option Refusal
  | .refused r => some r
  | _ => none

/-! Well-formedness (R58, R54) -/

theorem test_wf_refuses_unreserved_spur : (Instr.spur 0x3FF#11).wf = false := by decide
theorem test_wf_accepts_reserved_spur : (Instr.spur 0x400#11).wf = true := by decide

/-! Decoding: words written out from the patterns of R52, bit by bit -/

theorem test_decode_addr : decode 0b001_11001000#11 = .addr 200#8 := by decide
theorem test_decode_data : decode 0b000_11111111#11 = .data 0xFF#8 := by decide
theorem test_decode_read : decode 0b01_111111111#11 = .read 0x1FF#9 := by decide
theorem test_decode_spur : decode 0b1_0110100101#11 = .spur 0x5A5#11 := by decide
theorem test_encode_addr : encode (.addr 0x42#8) = 0x142#11 := by decide
theorem test_encode_data : encode (.data 0x5A#8) = 0x05A#11 := by decide
theorem test_encode_read : encode (.read 0#9) = 0x200#11 := by decide
theorem test_encode_spur : encode (.spur 0x600#11) = 0x600#11 := by decide
theorem test_table_word : decodeTableWord 16 0x1C8 = some (.addr 200#8) := by decide
theorem test_wide_number : decodeTableWord 16 0x800 = none := by decide

/-! The events (section 2.3 to 2.7) -/

/-- 2.3: `P_N = 128`, `ADDR 200` gives `Cur = 72`. -/
theorem test_addr_reduces : (nextOf (exec (.addr 200#8) (small 128 [] [] 0#8))).map (·.cur) = some 72#8 := by decide

/-- 2.3: `P_N = 256`, `P_SEED = {5 -> 9}`, `ADDR 5` gives `Cur = 5`, the cell untouched. -/
theorem test_addr_touches_no_cell :
    (nextOf (exec (.addr 5#8) (small 256 [(5, 9#8)] [] 0#8))).map (fun t => (t.cur, readCell t 5)) =
      some (5#8, some 9#8) := by decide

/-- 2.4: `P_N = 256`, `Cur = 255`, `DATA 0xAB` gives `Mem[255] = AB`, `Cur = 0`. -/
theorem test_data_wraps :
    (nextOf (exec (.data 0xAB#8) (small 256 [] [] 255#8))).map (fun t => (t.cur, readCell t 255)) =
      some (0#8, some 0xAB#8) := by decide

/-- 2.4: a seeded cell is overwritten; here with zero, which is not its reset value. -/
theorem test_data_over_seed :
    (nextOf (exec (.data 0#8) (small 256 [(60, 50#8)] [] 60#8))).map (fun t => (t.cur, readCell t 60)) =
      some (61#8, some 0#8) := by decide

/-- 2.5: word `3FF` with `Cur = 5`, `Mem[5] = 77` answers 77, `Cur = 6`. -/
theorem test_read_ignores_bits :
    (nextOf (exec (decode 0x3FF#11) (small 256 [] [(5, 0x77#8)] 5#8))).map (fun t => (t.cur, t.out)) =
      some (6#8, some 0x77#8) := by decide

/-- 2.5: `P_N = 1`, `Mem[0] = 33`: READ answers 33, `Cur = 0`. -/
theorem test_read_one_cell :
    (nextOf (exec (.read 0#9) (small 1 [] [(0, 0x33#8)] 0#8))).map (fun t => (t.cur, t.out)) =
      some (0#8, some 0x33#8) := by decide

/-- 2.6: `Cur = 5`, `SPUR 0x400`: no output, `Cur = 5`. -/
theorem test_spur_keeps_cursor :
    (nextOf (exec (.spur 0x400#11) (small 256 [] [(5, 1#8)] 5#8))).map (fun t => (t.cur, t.out, t.mem)) =
      some (5#8, none, [(5, 1#8)]) := by decide

/-- 2.7: `P_N = 128`, `Cur = 128`, `SPUR 0x400`: AddressOverflow with Cursor 128. -/
theorem test_spur_faults_out_of_range :
    faultOf (exec (.spur 0x400#11) (small 128 [] [] 128#8)) = some (.addressOverflow 128#8) := by decide

/-- 2.7: `P_N = 128`, `P_SEED = {130 -> 1}` is refused. -/
theorem test_restart_refuses_seed :
    refusalOf (restart { capacity := 128, seed := [(130, 1#8)] } State.reset) = some .illegalConfiguration := by decide

/-- 2.8: `P_SEED = {60 -> 50}`; before reset `Mem[60] = 07`, `Cur = 61`. -/
theorem test_restart_restores_seed :
    (nextOf (restart { capacity := 256, seed := [(60, 50#8)] } (small 256 [(60, 50#8)] [(60, 7#8)] 61#8))).map
      (fun t => (t.cur, readCell t 60, readCell t 0)) = some (0#8, some 50#8, some 0#8) := by decide

/-- The first event after reset, placed and stepped: `DATA 0x11` gives `Mem[0] = 11`, `Cur = 1` (2.4). -/
theorem test_step_placed_event :
    (nextOf (step (State.reset.withFetchWord 16 0x011))).map (fun t => (t.cur, readCell t 0, t.inbox)) =
      some (1#8, some 0x11#8, []) := by decide

/-- A refused configuration has no run, not even that of no events (R82; 2.7, `P_N = 257`). -/
theorem test_no_run_of_refused_configuration :
    (runEvents [] (small 257 [] [] 0#8)).toOption = none ∧ (runEvents [] State.reset).isOk = true := by decide

/-! Assembler lines (R58) -/

theorem test_assemble_addr :
    assembleLine ['A', 'D', 'D', 'R', ' ', '0', 'x', '3', 'C', ' ', ';', 'x'] = .ok [0x13C#11] := by decide
theorem test_assemble_read :
    assembleLine ['R', 'E', 'A', 'D', ' ', '-', '>', ' ', '5', '0'] = .ok [0x200#11] := by decide
/-- A comment alone is no event (R58), and so is a blank line (the model's choice, notes/assumptions/18.md). -/
theorem test_assemble_no_event :
    assembleLine [';', 'x'] = .ok [] ∧ assembleLine [' '] = .ok [] ∧ assembleLine [] = .ok [] := by decide
theorem test_assemble_refuses :
    assembleLine ['D', 'A', 'T', 'A', ' ', '2', '5', '6'] = .error (.outOfRange 256) := by decide

/-! Witnesses. `st` is ready, its Cursor the last cell, one cell seeded, one written. -/

def st : State := small 4 [(1, 9#8)] [(2, 7#8)] 3#8

/-- Meets the hypothesis of every statement over a ready state: AddrSetsCursor, DataStoresAtCursor,
ReadAnswersByteAtCursor, SpurIsIgnored, AddrIsIdempotent, ReadyStateNeverStops, MemoryIsSequential, RunEndsProperly,
BurstsAscendModuloCapacity, ReadBackAfterReaddress, ZeroDataWriteSelectsCell. -/
theorem witness_ready : st.Ready := ⟨by decide, by decide, by decide⟩

/-- The same at the least and the greatest capacity. -/
theorem witness_ready_one_cell : (small 1 [] [] 0#8).Ready := ⟨by decide, by decide, by decide⟩
theorem witness_ready_full : (small 256 [] [] 255#8).Ready := ⟨by decide, by decide, by decide⟩

/-- DecodeByFields, a word for each clause, at its boundary. -/
theorem witness_DecodeByFields :
    (0x1FF#11 : EventWord).toNat / 512 = 0 ∧ (0x1FF#11 : EventWord).toNat / 256 % 2 = 1 ∧
    (0x0FF#11 : EventWord).toNat / 512 = 0 ∧ (0x0FF#11 : EventWord).toNat / 256 % 2 = 0 ∧
    (0x200#11 : EventWord).toNat / 512 = 1 ∧ 2 ≤ (0x400#11 : EventWord).toNat / 512 := by decide

theorem witness_IgnoredBitsChangeNothing :
    (0x3FF#11 : EventWord) &&& 0x600#11 = 0x200#11 ∧ (0x7FF#11 : EventWord) &&& 0x400#11 = 0x400#11 := by decide

theorem witness_DecodeEncodeRoundTrip : (Instr.spur 0x7FF#11).wf = true := by decide

theorem witness_WriteTransferFlagsFirstByte :
    (Transfer.write [10#8, 1#8]).events[0]? = some 0x10A#11 ∧
    (Transfer.write [10#8, 1#8]).events[1]? = some 0x001#11 := by decide

/-- AssemblerChecksOperands: the two sides of each bound. -/
theorem witness_AssemblerChecksOperands :
    assemble (.addr 255) = .ok 0x1FF#11 ∧ assemble (.addr 256) = .error (.outOfRange 256) ∧
    assemble (.data 255) = .ok 0x0FF#11 ∧ assemble (.data 256) = .error (.outOfRange 256) ∧
    assemble (.read (some 255)) = .ok 0x200#11 ∧ assemble (.read (some 256)) = .error (.outOfRange 256) ∧
    assemble (.spur 1024) = .ok 0x400#11 ∧ assemble (.spur 1023) = .error (.outOfRange 1023) ∧
    assemble (.spur 2047) = .ok 0x7FF#11 ∧ assemble (.spur 2048) = .error (.outOfRange 2048) := by decide

/-- Word clauses of the four event statements. -/
theorem witness_event_words :
    (0x1FF#11 : EventWord) &&& 0x700#11 = 0x100#11 ∧ (0x0FF#11 : EventWord) &&& 0x700#11 = 0x000#11 ∧
    (0x3FF#11 : EventWord) &&& 0x600#11 = 0x200#11 ∧ (0x400#11 : EventWord) &&& 0x400#11 = 0x400#11 := by decide

theorem witness_CursorFollowsTable : (nextOf (exec (.addr 255#8) st)).isSome = true := by decide

theorem witness_FrameOfNonStoringEvents :
    (nextOf (exec (.read 0#9) st)).isSome = true ∧ (nextOf (exec (.spur 0x400#11) st)).isSome = true := by decide

theorem witness_FrameOfData : (nextOf (exec (.data 1#8) st)).isSome = true := by decide

/-- OnlyReadResponds, StepRunsDecodedEvent: a READ and a DATA next. -/
theorem witness_OnlyReadResponds :
    (nextOf (step (deliverNext 0x200#11 st))).map (·.out.isSome) = some true ∧
    (nextOf (step (deliverNext 0x001#11 st))).map (·.out.isSome) = some false := by decide

theorem witness_StepRunsDecodedEvent :
    (deliverNext 0x2A5#11 st).inbox = .event 0x2A5#11 :: st.inbox ∧ decode 0x2A5#11 = .read 0x0A5#9 := by decide

theorem witness_AddrForgetsCursor : st.Ready ∧ State.Ready { st with cur := 0#8 } :=
  ⟨witness_ready, ⟨by decide, by decide, by decide⟩⟩

/-- WireAddressesAlias: both clauses, `250 = 2 + 62 * 4` and a file of 256 cells. -/
theorem witness_WireAddressesAlias :
    st.Ready ∧ (250#8 : Byte).toNat = (2#8 : Byte).toNat + 62 * st.cfg.capacity ∧
      (small 256 [] [] 255#8).cfg.capacity = 256 :=
  ⟨witness_ready, by decide, by decide⟩

theorem witness_IdleStepKeepsState : legalConfig st.cfg ∧ st.mark = none ∧ st.inbox = [] := by decide

theorem witness_PlacedEventRunsNext : 0x7FF % 2 ^ 16 < 2048 ∧ 0x1FFF % 2 ^ 11 < 2048 := by decide

/-- CompleteStep: an event next, in range and out of range; its word clauses are those of `witness_DecodeByFields`. -/
theorem witness_CompleteStep :
    (legalConfig st.cfg ∧ st.mark = none ∧ st.cur.toNat < st.cfg.capacity) ∧
    (legalConfig (small 128 [] [] 200#8).cfg ∧ (small 128 [] [] 200#8).mark = none ∧
      ¬ (small 128 [] [] 200#8).cur.toNat < (small 128 [] [] 200#8).cfg.capacity) ∧
    (deliverNext 0x200#11 st).inbox = .event 0x200#11 :: st.inbox := by decide

theorem st_inv : st.Inv := ⟨witness_ready, by decide⟩

/-- StepKeepsInvariant: a DATA next, in a state that meets the invariant. -/
theorem witness_StepKeepsInvariant :
    (deliverNext 0x001#11 st).Inv ∧ (nextOf (step (deliverNext 0x001#11 st))).isSome = true :=
  ⟨⟨⟨by decide, by decide, by decide⟩, by decide⟩, by decide⟩

theorem witness_ResetMeetsInvariant : legalConfig { capacity := 1, seed := [(0, 5#8)] } := by decide

/-- OnlyDataChangesMemory: a step, not a restart, that changes a cell. -/
theorem witness_OnlyDataChangesMemory :
    (nextOf (step (deliverNext 0x001#11 st))).map (fun t => readCell t 3) = some (some 1#8) ∧
    readCell st 3 = some 0#8 := by decide

theorem witness_OnlyRestartConfigures :
    (nextOf (step { st with inbox := [.restart Config.reference] })).map (·.cfg.capacity) = some 256 := by decide

theorem witness_CanonicalMemoryIsUnique :
    Memory.wf st.cfg st.mem ∧ st.mem ≠ [] := by decide

/-- OutOfRangeCursorFaults: the least Cursor out of range, and a run from a reset state. -/
theorem witness_OutOfRangeCursorFaults :
    (legalConfig (small 128 [] [] 128#8).cfg ∧ (small 128 [] [] 128#8).mark = none ∧
      (small 128 [] [] 128#8).cfg.capacity ≤ (small 128 [] [] 128#8).cur.toNat) ∧
    (runEvents [0x1FF#11, 0x200#11] (State.boot { capacity := 3, seed := [] })).isOk = true := by decide

/-- FaultMarkEndsRun: a faulting event, a marked state, a run that ends marked. -/
theorem witness_FaultMarkEndsRun :
    faultOf (exec (decode 0x200#11) (small 128 [] [] 200#8)) = some (.addressOverflow 200#8) ∧
    (legalConfig (setMark (.addressOverflow 200#8) (small 128 [] [] 200#8)).cfg ∧
      (setMark (.addressOverflow 200#8) (small 128 [] [] 200#8)).mark = some (.addressOverflow 200#8)) ∧
    (runEvents [0x200#11] (small 128 [] [] 200#8)).toOption.map (·.state.mark) =
      some (some (.addressOverflow 200#8)) := by decide

/-- IllegalConfigurationRefused: each of the four grounds. -/
theorem witness_IllegalConfigurationRefused :
    (small 0 [] [] 0#8).cfg.capacity = 0 ∧ 256 < (small 257 [] [] 0#8).cfg.capacity ∧
    (∃ e ∈ (small 128 [(130, 1#8)] [] 0#8).cfg.seed, (small 128 [(130, 1#8)] [] 0#8).cfg.capacity ≤ e.1) ∧
    ¬ ((small 2 [(0, 1#8), (0, 2#8)] [] 0#8).cfg.seed.map Prod.fst).Nodup := by decide

/-- RestartGivesResetState, RestartInMidTransfer, FirstAccessUsesCellZero: a legal configuration with a seed, and a
restart with a DATA behind it. -/
theorem witness_RestartGivesResetState :
    legalConfig { capacity := 256, seed := [(60, 50#8)] } ∧
    (60, 50#8) ∈ ({ capacity := 256, seed := [(60, 50#8)] } : Config).seed ∧
    ∃ s : State, s.inbox = [.restart { capacity := 256, seed := [(60, 50#8)] }, .event 0x007#11] :=
  ⟨by decide, by decide, ⟨{ st with inbox := [.restart _, .event 0x007#11] }, rfl⟩⟩

theorem witness_RestartInMidTransfer : decode 0x007#11 = .data 7#8 := by decide

/-- RestartChecksConfiguration: a configuration on each side. -/
theorem witness_RestartChecksConfiguration :
    (nextOf (step { st with inbox := [.restart { capacity := 256, seed := [(255, 1#8)] }] })).isSome = true ∧
    refusalOf (step { st with inbox := [.restart { capacity := 0, seed := [] }] }) = some .illegalConfiguration ∧
    refusalOf (step { st with inbox := [.restart { capacity := 257, seed := [] }] }) = some .illegalConfiguration := by
  decide

/-- MemoryIsSequential's inner hypotheses: a cell of `st`, and the Cursor's after two events. -/
theorem witness_MemoryIsSequential :
    readCell st 2 = some 7#8 ∧ readCell st (cursorAfter st.cfg.capacity st.cur.toNat [0x102#11, 0x005#11]) = some 0#8 := by
  decide

/-- StepsDeliverTheRun, StepOutputsAreTheResponses. -/
theorem witness_StepsDeliverTheRun : st.Ready ∧ st.inbox = [] := ⟨witness_ready, by decide⟩

/-- FullWriteWrapsToZero: five bytes for four cells. -/
theorem witness_FullWriteWrapsToZero :
    st.Ready ∧ [10#8, 11#8, 12#8, 13#8, 14#8].length = st.cfg.capacity + 1 := ⟨witness_ready, by decide⟩

/-- ReadAfterWriteContinues: a file of more than one cell. -/
theorem witness_ReadAfterWriteContinues : st.Ready ∧ 1 < st.cfg.capacity := ⟨witness_ready, by decide⟩

end Sys2Proof.Tests
end

section
/-! The state: what an event and a step make of the Cursor, Memory, the configuration and the invariant
(spec/10_state.md). -/

namespace Sys2Proof.Machine

variable {s t : State} {i : Instr}

/-! One event -/

@[simp] theorem effectOf_cfg : (effectOf i s).cfg = s.cfg := (effectOf_rest i).1
@[simp] theorem effectOf_inbox : (effectOf i s).inbox = s.inbox := (effectOf_rest i).2.1
@[simp] theorem effectOf_mark : (effectOf i s).mark = s.mark := (effectOf_rest i).2.2

/-- The Cursor of an event's effect is that of the table of R22. -/
theorem effectOf_cur_toNat (hl : legalConfig s.cfg) :
    (effectOf i s).cur.toNat = nextCursor s.cfg.capacity s.cur.toNat i := by
  cases i with
  | addr a => exact wireCell_toNat hl a
  | data v => exact advance_toNat hl s.cur
  | read x => exact advance_toNat hl s.cur
  | spur w => rfl

/-- The table of R22 keeps a Cursor in range. -/
theorem nextCursor_lt {n cur : Nat} (hcur : cur < n) : nextCursor n cur i < n := by
  have hn : 0 < n := by omega
  cases i with
  | addr a => exact Nat.mod_lt _ hn
  | data v => exact Nat.mod_lt _ hn
  | read x => exact Nat.mod_lt _ hn
  | spur w => exact hcur

theorem effectOf_ready (h : s.Ready) : (effectOf i s).Ready where
  legal := by simpa using h.legal
  unmarked := by simpa using h.unmarked
  inRange := by simpa [effectOf_cur_toNat h.legal] using nextCursor_lt h.inRange

/-- Only DATA writes the list of cells. -/
theorem effectOf_mem_of_not_data (hi : ∀ v, i ≠ .data v) : (effectOf i s).mem = s.mem := by
  cases i with
  | data v => exact absurd rfl (hi v)
  | addr a => rfl
  | read x => rfl
  | spur w => rfl

theorem readCell_effectOf_of_not_data (hi : ∀ v, i ≠ .data v) (j : Nat) :
    readCell (effectOf i s) j = readCell s j :=
  readCell_congr effectOf_cfg (effectOf_mem_of_not_data hi)

/-- Every event keeps the invariant; the one case with content is the store of DATA. -/
theorem effectOf_inv (h : s.Inv) : (effectOf i s).Inv := by
  refine ⟨effectOf_ready h.ready, ?_⟩
  cases i with
  | data v => exact writeAtCursor_wf h.canonical h.ready.inRange
  | addr a => exact h.canonical
  | read x => exact h.canonical
  | spur w => exact h.canonical

/-! One step -/

/-- Everything `step` can do when it answers a next state: idle, handle the next event, or restart. -/
theorem step_next (h : step s = .next t) :
    (s.inbox = [] ∧ t = noResponse s) ∨
    (∃ w rest, s.inbox = .event w :: rest ∧ State.Ready { s with inbox := rest } ∧
      t = effectOf (decode w) { s with inbox := rest }) ∨
    (∃ c rest, s.inbox = .restart c :: rest ∧ legalConfig c ∧ t = { State.boot c with inbox := rest }) := by
  rcases hin : s.inbox with _ | ⟨⟨w⟩ | ⟨c⟩, rest⟩
  · obtain ⟨-, -, ht⟩ := idle_next (step_idle hin ▸ h)
    exact .inl ⟨rfl, ht⟩
  · obtain ⟨hready, ht⟩ := exec_next (step_event hin ▸ h)
    exact .inr (.inl ⟨w, rest, rfl, hready, ht⟩)
  · obtain ⟨hl, ht⟩ := restart_next (step_restart hin ▸ h)
    exact .inr (.inr ⟨c, rest, rfl, hl, ht⟩)

/-! The invariant -/

/-- The invariant says nothing of the inputs and the output. -/
theorem State.Inv.setIO (h : s.Inv) (ins : List Input) (o : Option Byte) :
    State.Inv { s with inbox := ins, out := o } :=
  ⟨⟨h.ready.legal, h.ready.unmarked, h.ready.inRange⟩, h.canonical⟩

theorem boot_inv {c : Config} (h : legalConfig c) : (State.boot c).Inv :=
  ⟨⟨h, rfl, h.1.1⟩, boot_memory_wf⟩

theorem reference_legal : legalConfig Config.reference := by decide

/-! The word of a DataPhase -/

/-- Field K as a number: the bits above the low nine. -/
theorem kindOf_toNat (w : EventWord) : (kindOf w).toNat = w.toNat / 512 := by
  have hw := w.isLt
  simp only [kindOf, BitVec.extractLsb'_toNat, Nat.shiftRight_eq_div_pow]
  omega

/-- Field F as a number. -/
theorem phaseFlag_eq_false_iff (w : EventWord) : phaseFlag w = false ↔ w.toNat / 256 % 2 = 0 := by
  rw [phaseFlag, BitVec.getLsbD, Nat.testBit_eq_decide_div_mod_eq, decide_eq_false_iff_not]
  omega

theorem isStore_of_decode_eq_data {w : EventWord} {v : Byte} (h : decode w = .data v) : isStore w := by
  have hfields : kindOf w = 0b00#2 ∧ phaseFlag w = false := by
    unfold decode at h
    split at h
    · split at h
      · cases h
      · exact ⟨‹_›, by simpa using ‹¬ phaseFlag w = true›⟩
    · split at h <;> cases h
  obtain ⟨hkind, hflag⟩ := hfields
  exact ⟨by rw [← kindOf_toNat, hkind]; rfl, (phaseFlag_eq_false_iff w).1 hflag⟩

/-! Canonical Memory -/

theorem readCell_eq_some_iff {j : Nat} {b : Byte} :
    readCell s j = some b ↔ j < s.cfg.capacity ∧ cellByte s j = b := by
  simp [readCell]

/-- The entries of a canonical Memory are exactly the cells that read as something other than their reset value. -/
theorem mem_canonical_iff (h : Memory.wf s.cfg s.mem) {j : Nat} {b : Byte} :
    (j, b) ∈ s.mem ↔ readCell s j = some b ∧ b ≠ resetByte s.cfg j := by
  obtain ⟨hrising, hentries⟩ := h
  rw [readCell_eq_some_iff]
  constructor
  · intro hmem
    obtain ⟨hj, hb⟩ := hentries _ hmem
    exact ⟨⟨hj, by simp [cellByte, lookup_eq_of_mem hrising hmem]⟩, hb⟩
  · rintro ⟨⟨-, hcell⟩, hb⟩
    cases hfound : s.mem.lookup j with
    | none => exact absurd (by simpa [cellByte, hfound] using hcell.symm) hb
    | some b' =>
      obtain rfl : b' = b := by simpa [cellByte, hfound] using hcell
      obtain ⟨l₁, l₂, hl, -⟩ := List.lookup_eq_some_iff.1 hfound
      simp [hl]

/-- Two lists of cells with rising addresses and the same entries are one. -/
theorem rising_ext {m m' : Memory} (h : m.Pairwise (fun x y => x.1 < y.1))
    (h' : m'.Pairwise (fun x y => x.1 < y.1)) (hmem : ∀ e, e ∈ m ↔ e ∈ m') : m = m' := by
  have hnodup {l : Memory} (hl : l.Pairwise (fun x y => x.1 < y.1)) : l.Nodup :=
    hl.imp fun hlt heq => by simp [heq] at hlt
  exact ((List.perm_ext_iff_of_nodup (hnodup h) (hnodup h')).2 hmem).eq_of_pairwise
    (fun _ _ _ _ hab hba => absurd hab hba.asymm) h h'

/-! The obligations -/

/-- Settles O23: by the three kinds of step, each of which keeps the invariant or establishes it. -/
theorem stepKeepsInvariant : Obligations.StepKeepsInvariant := by
  intro s t hs h
  rcases step_next h with ⟨-, rfl⟩ | ⟨w, rest, -, -, rfl⟩ | ⟨c, rest, -, hl, rfl⟩
  · exact hs.setIO s.inbox none
  · exact effectOf_inv (hs.setIO rest s.out)
  · exact (boot_inv hl).setIO rest none

/-- Settles O12: an event that answers has its effect, whose Cursor is that of the table. -/
theorem cursorFollowsTable : Obligations.CursorFollowsTable := by
  intro s t i h
  obtain ⟨hready, rfl⟩ := exec_next h
  exact effectOf_cur_toNat hready.legal

/-- Settles O25: idle steps and the events other than DATA leave every cell. -/
theorem onlyDataChangesMemory : Obligations.OnlyDataChangesMemory := by
  intro s t hno h
  rcases step_next h with ⟨-, rfl⟩ | ⟨w, rest, hin, -, rfl⟩ | ⟨c, rest, hin, -⟩
  · exact ⟨rfl, fun j hj => absurd (readCell_congr rfl rfl) hj⟩
  · refine ⟨by simp, fun j hj => ⟨w, rest, hin, ?_⟩⟩
    by_contra hstore
    have hdata : ∀ v, decode w ≠ .data v := fun v hv => hstore (isStore_of_decode_eq_data hv)
    exact hj ((readCell_effectOf_of_not_data hdata j).trans (readCell_congr rfl rfl))
  · exact absurd hin (hno c rest)

/-- Settles O26: idle steps and events keep the configuration, a restart brings its own. -/
theorem onlyRestartConfigures : Obligations.OnlyRestartConfigures := by
  intro s t h
  rcases step_next h with ⟨-, rfl⟩ | ⟨w, rest, -, -, rfl⟩ | ⟨c, rest, hin, -, rfl⟩
  · exact .inl rfl
  · exact .inl effectOf_cfg
  · exact .inr ⟨c, rest, hin, rfl⟩

/-- Settles O27: both memories list, in rising order, the cells that differ from their reset value. -/
theorem canonicalMemoryIsUnique : Obligations.CanonicalMemoryIsUnique := by
  intro s t hcfg hs ht hread
  refine rising_ext ht.1 hs.1 fun ⟨j, b⟩ => ?_
  rw [mem_canonical_iff ht, mem_canonical_iff hs, hread, hcfg]

/-- Settles O24: the Cursor 0 is in range of every legal capacity, and no cell is listed. -/
theorem resetMeetsInvariant : Obligations.ResetMeetsInvariant :=
  ⟨fun _ hl => boot_inv hl, boot_inv reference_legal⟩

end Sys2Proof.Machine
end

section
/-! Sequences of events from a ready state: the end state and the responses of a run as plain functions of the state,
and the bursts of a transfer (spec/20_memory.md). -/

namespace Sys2Proof.Machine

variable {s : State} {w : EventWord} {ws ws' : List EventWord} {n i cur : Nat} {b : Byte}

/-! The end state and the responses of a run -/

/-- The state after a sequence of events, each with its effect. -/
def stateAfter : List EventWord → State → State
  | [], s => s
  | w :: ws, s => stateAfter ws (effectOf (decode w) s)

/-- The bytes a sequence of events answers, in order. -/
def responsesOf : List EventWord → State → List Byte
  | [], _ => []
  | w :: ws, s => (effectOf (decode w) s).out.toList ++ responsesOf ws (effectOf (decode w) s)

@[simp] theorem stateAfter_nil : stateAfter [] s = s := rfl

@[simp] theorem stateAfter_cons : stateAfter (w :: ws) s = stateAfter ws (effectOf (decode w) s) := rfl

@[simp] theorem responsesOf_nil : responsesOf [] s = [] := rfl

@[simp] theorem responsesOf_cons :
    responsesOf (w :: ws) s = (effectOf (decode w) s).out.toList ++ responsesOf ws (effectOf (decode w) s) := rfl

/-- From a ready state no event faults or is refused, so a run is its effects and its responses. -/
theorem runEvents_ready (h : s.Ready) : runEvents ws s = .ok ⟨stateAfter ws s, responsesOf ws s⟩ := by
  induction ws generalizing s with
  | nil => exact runEvents_nil h.legal
  | cons w ws ih => rw [runEvents_cons h, ih (effectOf_ready h)]; rfl

theorem stateAfter_append : stateAfter (ws ++ ws') s = stateAfter ws' (stateAfter ws s) := by
  induction ws generalizing s with
  | nil => rfl
  | cons w ws ih => exact ih

theorem responsesOf_append :
    responsesOf (ws ++ ws') s = responsesOf ws s ++ responsesOf ws' (stateAfter ws s) := by
  induction ws generalizing s with
  | nil => rfl
  | cons w ws ih => simp [ih]

@[simp] theorem stateAfter_cfg : (stateAfter ws s).cfg = s.cfg := by
  induction ws generalizing s with
  | nil => rfl
  | cons w ws ih => simp [ih]

theorem stateAfter_ready (h : s.Ready) : (stateAfter ws s).Ready := by
  induction ws generalizing s with
  | nil => exact h
  | cons w ws ih => exact ih (effectOf_ready h)

theorem stateAfter_cur_toNat (hl : legalConfig s.cfg) :
    (stateAfter ws s).cur.toNat = cursorAfter s.cfg.capacity s.cur.toNat ws := by
  induction ws generalizing s with
  | nil => rfl
  | cons w ws ih => rw [stateAfter_cons, ih (by simpa using hl), effectOf_cfg, effectOf_cur_toNat hl]; rfl

/-- Memory stays as it is over a sequence of events without a DATA. -/
theorem stateAfter_mem_of_no_data (hws : ∀ w ∈ ws, ∀ v, decode w ≠ .data v) : (stateAfter ws s).mem = s.mem := by
  induction ws generalizing s with
  | nil => rfl
  | cons w ws ih =>
    rw [stateAfter_cons, ih fun w' h' => hws w' (by simp [h']), effectOf_mem_of_not_data (hws w (by simp))]

/-! The latest byte of each cell (R40) -/

theorem latestByte_cons :
    latestByte n i b cur (w :: ws) =
      latestByte n i (latestByte n i b cur [w]) (nextCursor n cur (decode w)) ws := rfl

theorem latestByte_data {v : Byte} (h : decode w = .data v) :
    latestByte n i b cur [w] = if cur = i then v else b := by
  simp [latestByte, h]

theorem latestByte_of_not_data (h : ∀ v, decode w ≠ .data v) : latestByte n i b cur [w] = b := by
  cases hw : decode w with
  | data v => exact absurd hw (h v)
  | addr a | read x | spur u => simp [latestByte, hw]

/-- What DATA makes of every cell. -/
theorem readCell_effectOf_data (h : s.Ready) (v : Byte) (j : Nat) :
    readCell (effectOf (.data v) s) j = if j = s.cur.toNat then some v else readCell s j := by
  calc readCell (effectOf (.data v) s) j
      = readCell (writeAtCursor v s) j := readCell_congr rfl rfl
    _ = if j = s.cur.toNat then some v else readCell s j := by simp [readCell_writeAtCursor, h.inRange]

/-- One event leaves in a cell its latest byte. -/
theorem readCell_effectOf_decode (h : s.Ready) (hb : readCell s i = some b) :
    readCell (effectOf (decode w) s) i = some (latestByte s.cfg.capacity i b s.cur.toNat [w]) := by
  by_cases hdata : ∃ v, decode w = .data v
  · obtain ⟨v, hv⟩ := hdata
    rw [latestByte_data hv, hv, readCell_effectOf_data h]
    by_cases hi : i = s.cur.toNat
    · rw [if_pos hi, if_pos hi.symm]
    · rw [if_neg hi, if_neg (Ne.symm hi), hb]
  · have hno : ∀ v, decode w ≠ .data v := fun v hv => hdata ⟨v, hv⟩
    rw [latestByte_of_not_data hno, readCell_effectOf_of_not_data hno, hb]

/-- A sequence of events leaves in a cell its latest byte. -/
theorem readCell_stateAfter (h : s.Ready) (hb : readCell s i = some b) :
    readCell (stateAfter ws s) i = some (latestByte s.cfg.capacity i b s.cur.toNat ws) := by
  induction ws generalizing s b with
  | nil => exact hb
  | cons w ws ih =>
    rw [stateAfter_cons, ih (effectOf_ready h) (readCell_effectOf_decode h hb), effectOf_cfg,
      effectOf_cur_toNat h.legal, ← latestByte_cons]

/-! Bursts (R33): every event of a burst moves the Cursor to the next cell -/

theorem cursorAfter_of_advancing (hws : ∀ w ∈ ws, ∀ c, nextCursor n c (decode w) = (c + 1) % n) (hcur : cur < n) :
    cursorAfter n cur ws = (cur + ws.length) % n := by
  induction ws generalizing cur with
  | nil => exact (Nat.mod_eq_of_lt hcur).symm
  | cons w ws ih =>
    have hn : 0 < n := by omega
    calc cursorAfter n cur (w :: ws)
        = cursorAfter n ((cur + 1) % n) ws := by rw [cursorAfter, hws w (by simp)]
      _ = ((cur + 1) % n + ws.length) % n := ih (fun w' h' => hws w' (by simp [h'])) (Nat.mod_lt _ hn)
      _ = (cur + (w :: ws).length) % n := by rw [Nat.mod_add_mod, List.length_cons]; congr 1; omega

theorem decode_of_mem_opReadN {k : Nat} (hw : w ∈ opReadN k) : decode w = .read 0#9 := by
  rw [List.eq_of_mem_replicate hw, decode_readRequest]

theorem opReadN_succ (k : Nat) : opReadN (k + 1) = opReadN k ++ [readRequest] := List.replicate_succ'

theorem opWrite_append (a : Byte) (vs vs' : List Byte) :
    opWrite a (vs ++ vs') = opWrite a vs ++ vs'.map (received false) := by
  simp [opWrite, Transfer.events]

theorem cursorAfter_opReadN (k : Nat) (hcur : cur < n) : cursorAfter n cur (opReadN k) = (cur + k) % n := by
  rw [cursorAfter_of_advancing (fun w hw c => by rw [decode_of_mem_opReadN hw]; rfl) hcur]
  simp [opReadN, Transfer.events]

theorem cursorAfter_opWrite (a : Byte) (vs : List Byte) (hn : 0 < n) :
    cursorAfter n cur (opWrite a vs) = (a.toNat + vs.length) % n := by
  have hadvance : ∀ w ∈ vs.map (received false), ∀ c, nextCursor n c (decode w) = (c + 1) % n := by
    intro w hw c
    obtain ⟨v, -, rfl⟩ := List.mem_map.1 hw
    rw [decode_received]; rfl
  calc cursorAfter n cur (opWrite a vs)
      = cursorAfter n (a.toNat % n) (vs.map (received false)) := by
        rw [opWrite, Transfer.events, cursorAfter, decode_received]; rfl
    _ = (a.toNat % n + vs.length) % n := by
        rw [cursorAfter_of_advancing hadvance (Nat.mod_lt _ hn), List.length_map]
    _ = (a.toNat + vs.length) % n := Nat.mod_add_mod ..

theorem cellByte_stateAfter_opReadN (k j : Nat) : cellByte (stateAfter (opReadN k) s) j = cellByte s j :=
  cellByte_congr stateAfter_cfg (stateAfter_mem_of_no_data fun w hw v => by simp [decode_of_mem_opReadN hw])

/-- Consecutive READs answer the cells from the Cursor on, modulo P_N. -/
theorem responsesOf_opReadN (h : s.Ready) (k : Nat) :
    responsesOf (opReadN k) s = (List.range k).map fun m => cellByte s ((s.cur.toNat + m) % s.cfg.capacity) := by
  induction k with
  | zero => rfl
  | succ k ih =>
    have hlast (t : State) : responsesOf [readRequest] t = [cellByte t t.cur.toNat] := by
      simp [decode_readRequest, effectOf]
    rw [opReadN_succ, responsesOf_append, ih, hlast, cellByte_stateAfter_opReadN, stateAfter_cur_toNat h.legal,
      cursorAfter_opReadN k h.inRange, List.range_succ, List.map_append, List.map_singleton]

/-! ADDR (R31, R37) -/

/-- Addresses that agree modulo P_N have one effect. -/
theorem effectOf_addr_congr {a a' : Byte} (h : a'.toNat % s.cfg.capacity = a.toNat % s.cfg.capacity) :
    effectOf (.addr a') s = effectOf (.addr a) s := by
  have hcell : wireCell s.cfg a' = wireCell s.cfg a := by rw [wireCell, wireCell, addressOperand, h]; rfl
  simp only [effectOf, setCursor, hcell]

theorem effectOf_addr_idem (a : Byte) (s : State) : effectOf (.addr a) (effectOf (.addr a) s) = effectOf (.addr a) s :=
  rfl

/-! The obligations -/

/-- Settles O17: ADDR keeps of its address the remainder modulo P_N alone. -/
theorem wireAddressesAlias : Obligations.WireAddressesAlias := by
  intro s a h
  have hcur : (effectOf (.addr a) s).cur.toNat = a.toNat % s.cfg.capacity := effectOf_cur_toNat h.legal
  refine ⟨effectOf (.addr a) s, exec_ready _ h, hcur, fun hcap => ?_, fun k b hb => ?_⟩
  · exact BitVec.eq_of_toNat_eq (by rw [hcur, hcap]; exact Nat.mod_eq_of_lt a.isLt)
  · have hmod : b.toNat % s.cfg.capacity = a.toNat % s.cfg.capacity := by rw [hb, Nat.add_mul_mod_self_right]
    rw [exec_ready _ h, effectOf_addr_congr hmod]

/-- Settles O18: the second ADDR overwrites the Cursor with the cell it holds. -/
theorem addrIsIdempotent : Obligations.AddrIsIdempotent := by
  intro s a h
  refine ⟨effectOf (.addr a) s, exec_ready _ h, ?_⟩
  rw [exec_ready _ (effectOf_ready h), effectOf_addr_idem]

/-- Settles O37: by induction on the events; the READ then answers the byte at the Cursor of the table. -/
theorem memoryIsSequential : Obligations.MemoryIsSequential := by
  intro ws s h
  have hcur := stateAfter_cur_toNat (ws := ws) h.legal
  refine ⟨_, runEvents_ready h, hcur, fun i b hb => readCell_stateAfter h hb, fun x b hb => ?_⟩
  obtain ⟨-, hbyte⟩ := readCell_eq_some_iff.1 (readCell_stateAfter (ws := ws) h hb)
  refine ⟨_, exec_ready _ (stateAfter_ready h), ?_⟩
  rw [effectOf, respond_out, hcur, hbyte]

/-- Settles O40: the Cursor after `k` events of a burst is `k` cells on, modulo P_N. -/
theorem burstsAscendModuloCapacity : Obligations.BurstsAscendModuloCapacity := by
  refine ⟨fun s a v vs h => ?_, fun s k h => ?_⟩
  · have hcur : (stateAfter (opWrite a vs) s).cur.toNat = (a.toNat + vs.length) % s.cfg.capacity := by
      rw [stateAfter_cur_toNat h.legal, cursorAfter_opWrite a vs h.legal.1.1]
    have hcell (j : Nat) : readCell (stateAfter (opWrite a (vs ++ [v])) s) j =
        if j = (a.toNat + vs.length) % s.cfg.capacity then some v else readCell (stateAfter (opWrite a vs) s) j := by
      rw [opWrite_append, stateAfter_append, ← hcur, ← readCell_effectOf_data (stateAfter_ready h)]
      simp [decode_received]
    exact ⟨_, _, runEvents_ready h, runEvents_ready h, by simp [hcell], fun j hj => by simp [hcell, hj]⟩
  · refine ⟨_, cellByte s ((s.cur.toNat + k) % s.cfg.capacity), runEvents_ready h, ?_, ?_, ?_⟩
    · simp [responsesOf_opReadN h]
    · simp [responsesOf_opReadN h]
    · exact readCell_eq_some_iff.2 ⟨mod_capacity_lt h.legal _, rfl⟩

end Sys2Proof.Machine
end

section
/-! The encoding: the fields and rows of an event word by its number, the round trip of decoder and encoder, the
assembler's words, and the row that alone responds (spec/30_encoding.md). -/

namespace Sys2Proof.Machine

variable {w : EventWord} {i : Instr} {s : State}

/-! The fields of a word -/

/-- Field D as a number. -/
@[simp] theorem byteOf_toNat (w : EventWord) : (byteOf w).toNat = w.toNat % 256 := by
  simp [byteOf, BitVec.extractLsb'_toNat]

theorem byteOf_eq_ofNat (w : EventWord) : byteOf w = BitVec.ofNat 8 (w.toNat % 256) :=
  BitVec.eq_of_toNat_eq (by simp)

/-- The ignored bits as a number. -/
@[simp] theorem ignoredOf_toNat (w : EventWord) : (ignoredOf w).toNat = w.toNat % 512 := by
  simp [ignoredOf, BitVec.extractLsb'_toNat]

/-- Field F, set, as a number; the other value is `phaseFlag_eq_false_iff`. -/
theorem phaseFlag_eq_true_iff (w : EventWord) : phaseFlag w = true ↔ w.toNat / 256 % 2 = 1 := by
  rw [← Bool.not_eq_false, phaseFlag_eq_false_iff]
  omega

theorem kindOf_eq_iff (k : BitVec 2) : kindOf w = k ↔ w.toNat / 512 = k.toNat := by
  rw [← kindOf_toNat, BitVec.toNat_inj]

/-- Bit 10 is set exactly in the words of a reserved kind. -/
theorem spur_wf_iff : (Instr.spur w).wf = true ↔ 2 ≤ w.toNat / 512 := by
  have hw := w.isLt
  rw [Instr.wf, BitVec.getLsbD, Nat.testBit_eq_decide_div_mod_eq, decide_eq_true_iff]
  omega

/-! The decoder, an equation a row (R51) -/

theorem decode_of_isAddress (h : isAddress w) : decode w = .addr (byteOf w) := by
  obtain ⟨hkind, hflag⟩ := h
  rw [decode, if_pos ((kindOf_eq_iff _).2 hkind), if_pos ((phaseFlag_eq_true_iff w).2 hflag)]

theorem decode_of_isStore (h : isStore w) : decode w = .data (byteOf w) := by
  obtain ⟨hkind, hflag⟩ := h
  rw [decode, if_pos ((kindOf_eq_iff _).2 hkind),
    if_neg (Bool.eq_false_iff.1 ((phaseFlag_eq_false_iff w).2 hflag))]

theorem decode_of_isRequest (h : isRequest w) : decode w = .read (ignoredOf w) := by
  have hkind : kindOf w = 0b01#2 := (kindOf_eq_iff _).2 h
  simp [decode, hkind]

theorem decode_of_reserved (h : 2 ≤ w.toNat / 512) : decode w = .spur w := by
  have hkind (k : BitVec 2) (hk : k.toNat < 2) : kindOf w ≠ k := by
    rw [Ne, kindOf_eq_iff]
    omega
  rw [decode, if_neg (hkind _ (by decide)), if_neg (hkind _ (by decide))]

/-- Every word is of one of the four rows. -/
theorem row_cases (w : EventWord) : isAddress w ∨ isStore w ∨ isRequest w ∨ 2 ≤ w.toNat / 512 := by
  unfold isAddress isStore isRequest
  omega

/-! The encoder, by the number of the word -/

/-- Bits put before a word count from above it. -/
theorem append_toNat {m n : Nat} (k : BitVec m) (x : BitVec n) : (k ++ x).toNat = 2 ^ n * k.toNat + x.toNat := by
  rw [BitVec.toNat_append, Nat.shiftLeft_eq, Nat.mul_comm, Nat.two_pow_add_eq_or_of_lt x.isLt]

@[simp] theorem encode_addr_toNat (a : Byte) : (encode (.addr a)).toNat = 256 + a.toNat := append_toNat 0b001#3 a

@[simp] theorem encode_data_toNat (v : Byte) : (encode (.data v)).toNat = v.toNat := by
  rw [encode, append_toNat, BitVec.toNat_zero, Nat.mul_zero, Nat.zero_add]

@[simp] theorem encode_read_toNat (x : BitVec 9) : (encode (.read x)).toNat = 512 + x.toNat := append_toNat 0b01#2 x

theorem isAddress_encode (a : Byte) : isAddress (encode (.addr a)) := by
  have := a.isLt
  rw [isAddress, encode_addr_toNat]
  omega

theorem isStore_encode (v : Byte) : isStore (encode (.data v)) := by
  have := v.isLt
  rw [isStore, encode_data_toNat]
  omega

theorem isRequest_encode (x : BitVec 9) : isRequest (encode (.read x)) := by
  have := x.isLt
  rw [isRequest, encode_read_toNat]
  omega

/-! The round trip -/

/-- Decoding the word of a well-formed operation gives the operation back. -/
theorem decode_encode (h : i.wf = true) : decode (encode i) = i := by
  cases i with
  | addr a =>
    have hbyte : byteOf (encode (.addr a)) = a :=
      BitVec.eq_of_toNat_eq (by have := a.isLt; rw [byteOf_toNat, encode_addr_toNat]; omega)
    rw [decode_of_isAddress (isAddress_encode a), hbyte]
  | data v =>
    have hbyte : byteOf (encode (.data v)) = v :=
      BitVec.eq_of_toNat_eq (by have := v.isLt; rw [byteOf_toNat, encode_data_toNat]; omega)
    rw [decode_of_isStore (isStore_encode v), hbyte]
  | read x =>
    have hbits : ignoredOf (encode (.read x)) = x :=
      BitVec.eq_of_toNat_eq (by have := x.isLt; rw [ignoredOf_toNat, encode_read_toNat]; omega)
    rw [decode_of_isRequest (isRequest_encode x), hbits]
  | spur w => exact decode_of_reserved (spur_wf_iff.1 h)

/-- Every word decodes to a well-formed operation. -/
theorem decode_wf (w : EventWord) : (decode w).wf = true := by
  obtain h | h | h | h := row_cases w
  · rw [decode_of_isAddress h]; rfl
  · rw [decode_of_isStore h]; rfl
  · rw [decode_of_isRequest h]; rfl
  · rw [decode_of_reserved h]; exact spur_wf_iff.2 h

/-- Encoding the operation of a word gives the word back. -/
theorem encode_decode (w : EventWord) : encode (decode w) = w := by
  apply BitVec.eq_of_toNat_eq
  obtain h | h | h | h := row_cases w
  · rw [decode_of_isAddress h, encode_addr_toNat, byteOf_toNat]
    unfold isAddress at h
    omega
  · rw [decode_of_isStore h, encode_data_toNat, byteOf_toNat]
    unfold isStore at h
    omega
  · rw [decode_of_isRequest h, encode_read_toNat, ignoredOf_toNat]
    unfold isRequest at h
    omega
  · rw [decode_of_reserved h, encode]

/-! The rows by the operation they decode to: a word that decodes to an operation is that operation's encoding -/

theorem exists_decode_eq_addr_iff : (∃ a, decode w = .addr a) ↔ isAddress w :=
  ⟨fun ⟨a, h⟩ => by rw [← encode_decode w, h]; exact isAddress_encode a, fun h => ⟨_, decode_of_isAddress h⟩⟩

theorem exists_decode_eq_data_iff : (∃ v, decode w = .data v) ↔ isStore w :=
  ⟨fun ⟨_, h⟩ => isStore_of_decode_eq_data h, fun h => ⟨_, decode_of_isStore h⟩⟩

theorem exists_decode_eq_read_iff : (∃ x, decode w = .read x) ↔ isRequest w :=
  ⟨fun ⟨x, h⟩ => by rw [← encode_decode w, h]; exact isRequest_encode x, fun h => ⟨_, decode_of_isRequest h⟩⟩

theorem exists_decode_eq_spur_iff : (∃ u, decode w = .spur u) ↔ 2 ≤ w.toNat / 512 := by
  refine ⟨fun ⟨u, h⟩ => ?_, fun h => ⟨w, decode_of_reserved h⟩⟩
  have hword : u = w := by rw [← encode_decode w, h, encode]
  have hwf := decode_wf w
  rw [h, hword] at hwf
  exact spur_wf_iff.1 hwf

/-! The rows by mask and match (R52) -/

/-- A mask of the bits from `k` up clears the low `k` bits. -/
theorem and_highMask_toNat (w : EventWord) (k : Nat) :
    (w &&& BitVec.allOnes 11 <<< k).toNat = w.toNat / 2 ^ k * 2 ^ k := by
  have hle := Nat.div_mul_le_self w.toNat (2 ^ k)
  have hw := w.isLt
  rw [← BitVec.shiftLeft_ushiftRight, BitVec.toNat_shiftLeft, BitVec.toNat_ushiftRight, Nat.shiftRight_eq_div_pow,
    Nat.shiftLeft_eq]
  exact Nat.mod_eq_of_lt (by omega)

/-- The masks of the map are of this form, so a match fixes the number above the ignored bits. -/
theorem and_highMask_eq_iff (w p : EventWord) (k : Nat) :
    w &&& BitVec.allOnes 11 <<< k = p ↔ w.toNat / 2 ^ k * 2 ^ k = p.toNat := by
  rw [← and_highMask_toNat, BitVec.toNat_inj]

theorem matches_addr_iff : w &&& 0x700#11 = 0x100#11 ↔ isAddress w := by
  refine (and_highMask_eq_iff w 0x100#11 8).trans ?_
  unfold isAddress
  bv_omega

theorem matches_data_iff : w &&& 0x700#11 = 0x000#11 ↔ isStore w := by
  refine (and_highMask_eq_iff w 0x000#11 8).trans ?_
  unfold isStore
  bv_omega

theorem matches_read_iff : w &&& 0x600#11 = 0x200#11 ↔ isRequest w := by
  refine (and_highMask_eq_iff w 0x200#11 9).trans ?_
  unfold isRequest
  bv_omega

theorem matches_spur_iff : w &&& 0x400#11 = 0x400#11 ↔ 2 ≤ w.toNat / 512 := by
  refine (and_highMask_eq_iff w 0x400#11 10).trans ?_
  bv_omega

/-! The assembler's words (R58) -/

theorem encode_addr_ofNat {n : Nat} (h : n < 256) :
    encode (.addr (BitVec.ofNat 8 n)) = 0x100#11 ||| BitVec.ofNat 11 n := by
  have hor : 2 ^ 8 * 1 + n = 2 ^ 8 * 1 ||| n := Nat.two_pow_add_eq_or_of_lt h 1
  apply BitVec.eq_of_toNat_eq
  rw [encode_addr_toNat, BitVec.toNat_or, BitVec.toNat_ofNat, BitVec.toNat_ofNat, BitVec.toNat_ofNat,
    Nat.mod_eq_of_lt h, Nat.mod_eq_of_lt (by omega : n < 2 ^ 11)]
  exact hor

theorem encode_data_ofNat {n : Nat} (h : n < 256) : encode (.data (BitVec.ofNat 8 n)) = BitVec.ofNat 11 n := by
  apply BitVec.eq_of_toNat_eq
  rw [encode_data_toNat, BitVec.toNat_ofNat, BitVec.toNat_ofNat]
  omega

/-! What no meaning reads, and what answers (R53, R55) -/

theorem exec_read_eq (x y : BitVec 9) (s : State) : exec (.read x) s = exec (.read y) s := by
  rw [exec_eq_handle, exec_eq_handle]; rfl

theorem exec_spur_eq (u v : EventWord) (s : State) : exec (.spur u) s = exec (.spur v) s := by
  rw [exec_eq_handle, exec_eq_handle]; rfl

/-- Of the four events READ alone leaves an output. -/
@[simp] theorem effectOf_out_isSome : (effectOf i s).out.isSome = isReadInstr i := by
  cases i <;> rfl

/-! The obligations -/

/-- Settles O7: the two round trips, with the well-formedness of what the decoder gives. -/
theorem decodeEncodeRoundTrip : Obligations.DecodeEncodeRoundTrip :=
  ⟨fun _ h => decode_encode h, fun w => ⟨decode_wf w, encode_decode w⟩⟩

/-- Settles O1: the decoder's equation of each row. -/
theorem decodeByFields : Obligations.DecodeByFields := by
  intro w
  refine ⟨fun hkind hflag => ?_, fun hkind hflag => ?_, fun hkind => ⟨_, decode_of_isRequest hkind⟩,
    decode_of_reserved⟩
  · rw [← byteOf_eq_ofNat, decode_of_isAddress ⟨hkind, hflag⟩]
  · rw [← byteOf_eq_ofNat, decode_of_isStore ⟨hkind, hflag⟩]

/-- Settles O2: mask and match, and the decoder, pick each row by the same numbers. -/
theorem opcodeMapSelectsOneRow : Obligations.OpcodeMapSelectsOneRow := fun _ =>
  ⟨matches_addr_iff.trans exists_decode_eq_addr_iff.symm, matches_data_iff.trans exists_decode_eq_data_iff.symm,
    matches_read_iff.trans exists_decode_eq_read_iff.symm, matches_spur_iff.trans exists_decode_eq_spur_iff.symm⟩

/-- Settles O3: both words of a row decode to its operation, whose meaning reads none of the ignored bits. -/
theorem ignoredBitsChangeNothing : Obligations.IgnoredBitsChangeNothing := by
  intro s w
  refine ⟨fun h => ?_, fun h => ?_⟩
  · rw [decode_of_isRequest (matches_read_iff.1 h), decode_of_isRequest (w := 0x200#11) rfl]
    exact exec_read_eq _ _ s
  · rw [decode_of_reserved (matches_spur_iff.1 h), decode_of_reserved (w := 0x400#11) (by decide)]
    exact exec_spur_eq _ _ s

/-- Settles O4: on either side of each bound, by the bound. -/
theorem assemblerChecksOperands : Obligations.AssemblerChecksOperands := by
  intro n
  refine ⟨fun h => ?_, fun h => ?_, fun h => ?_, fun h => ?_, fun hlo hhi => ?_, fun h => ?_, rfl⟩
  · rw [assemble, if_pos h, encode_addr_ofNat h]
  · rw [assemble, if_pos h, encode_data_ofNat h]
  · rw [assemble, if_pos h]; rfl
  · have hn : ¬ n < 256 := by omega
    exact ⟨if_neg hn, if_neg hn, if_neg hn⟩
  · rw [assemble, if_pos ⟨hlo, hhi⟩, encode]
  · exact if_neg (by omega)

/-- Settles O15: a step that answers has the event's effect, and of the effects READ's alone has an output. -/
theorem onlyReadResponds : Obligations.OnlyReadResponds := by
  intro s t w rest hin hstep
  rw [step_event hin] at hstep
  obtain ⟨-, rfl⟩ := exec_next hstep
  rw [effectOf_out_isSome]

end Sys2Proof.Machine
end

section
/-! The register file: what ADDR, DATA and READ make of the Cursor, the cells and the output, and a write transfer
longer than the file (spec/40_register_file.md). -/

namespace Sys2Proof.Machine

variable {s : State} {w : EventWord} {k l n : Nat}

/-! The operand of a received byte, by mask and match (R52, R56) -/

theorem decode_of_matches_addr (h : w &&& 0x700#11 = 0x100#11) :
    decode w = .addr (BitVec.ofNat 8 (w.toNat % 256)) := by
  rw [decode_of_isAddress (matches_addr_iff.1 h), byteOf_eq_ofNat]

theorem decode_of_matches_data (h : w &&& 0x700#11 = 0x000#11) :
    decode w = .data (BitVec.ofNat 8 (w.toNat % 256)) := by
  rw [decode_of_isStore (matches_data_iff.1 h), byteOf_eq_ofNat]

/-! The cells of a write transfer (R61, R64) -/

/-- Fewer than `n` cells on, modulo `n`, is another cell. -/
theorem add_mod_ne_add_mod (a : Nat) (hkl : k < l) (hln : l < k + n) : (a + k) % n ≠ (a + l) % n := by
  intro heq
  have hmod : k ≡ l [MOD n] := Nat.ModEq.add_left_cancel' a heq
  have hle : n ≤ l - k := Nat.le_of_dvd (by omega) ((Nat.modEq_iff_dvd' hkl.le).1 hmod)
  omega

/-- One more data byte goes to the next cell, modulo P_N, and to no other: R33 on the end states of the runs. -/
theorem readCell_stateAfter_opWrite_append (h : s.Ready) (a v : Byte) (vs : List Byte) (j : Nat) :
    readCell (stateAfter (opWrite a (vs ++ [v])) s) j =
      if j = (a.toNat + vs.length) % s.cfg.capacity then some v else readCell (stateAfter (opWrite a vs) s) j := by
  obtain ⟨e, e', he, he', hlast, hother⟩ := burstsAscendModuloCapacity.1 s a v vs h
  cases (runEvents_ready h).symm.trans he
  cases (runEvents_ready h).symm.trans he'
  split
  · subst j; exact hlast
  · exact hother j ‹_›

/-- After a write transfer a cell holds the data byte that went to it, if no later one did: the cells ascend modulo P_N,
so of `vs` only the last P_N bytes can be the last in their cell. -/
theorem readCell_stateAfter_opWrite (h : s.Ready) (a : Byte) (vs : List Byte) (hk : k < vs.length)
    (hlast : vs.length ≤ k + s.cfg.capacity) :
    readCell (stateAfter (opWrite a vs) s) ((a.toNat + k) % s.cfg.capacity) = vs[k]? := by
  induction vs using List.reverseRecOn with
  | nil => simp at hk
  | append_singleton vs v ih =>
    rw [List.length_append, List.length_singleton] at hk hlast
    rw [readCell_stateAfter_opWrite_append h]
    obtain rfl | hlt := Nat.eq_or_lt_of_le (Nat.le_of_lt_succ hk)
    · rw [if_pos rfl, List.getElem?_concat_length]
    · rw [if_neg (add_mod_ne_add_mod _ hlt (by omega)), ih hlt (by omega), List.getElem?_append_left hlt]

/-! The obligations -/

/-- Settles O8: ADDR has its effect, which sets the Cursor by the table of R22 and stores nothing. -/
theorem addrSetsCursor : Obligations.AddrSetsCursor := by
  refine ⟨fun s a h => ?_, fun _ => decode_of_matches_addr⟩
  have hcell (j : Nat) : readCell (effectOf (.addr a) s) j = readCell s j :=
    readCell_effectOf_of_not_data (by simp) j
  exact ⟨_, exec_ready _ h, effectOf_cur_toNat h.legal, rfl, hcell, effectOf_cfg, effectOf_inbox,
    effectOf_mark.trans h.unmarked⟩

/-- Settles O9: DATA has its effect, which stores at the old Cursor alone and advances it by the table of R22. -/
theorem dataStoresAtCursor : Obligations.DataStoresAtCursor := by
  refine ⟨fun s v h => ?_, fun _ => decode_of_matches_data⟩
  have hcell := readCell_effectOf_data h v
  exact ⟨_, exec_ready _ h, by rw [hcell, if_pos rfl], effectOf_cur_toNat h.legal, rfl,
    fun j hj => by rw [hcell, if_neg hj], effectOf_cfg, effectOf_inbox, effectOf_mark.trans h.unmarked⟩

/-- Settles O10: READ has its effect, whose output is the byte at the old Cursor, a cell that exists. -/
theorem readAnswersByteAtCursor : Obligations.ReadAnswersByteAtCursor := by
  refine ⟨fun s x h => ?_, fun _ hw => ⟨_, decode_of_isRequest (matches_read_iff.1 hw)⟩⟩
  have hbyte : readCell s s.cur.toNat = some (cellByte s s.cur.toNat) := readCell_eq_some_iff.2 ⟨h.inRange, rfl⟩
  have hcell (j : Nat) : readCell (effectOf (.read x) s) j = readCell s j :=
    readCell_effectOf_of_not_data (by simp) j
  exact ⟨_, _, exec_ready _ h, hbyte, rfl, effectOf_cur_toNat h.legal, hcell, effectOf_cfg, effectOf_inbox,
    effectOf_mark.trans h.unmarked⟩

/-- Settles O41: of `P_N + 1` bytes all but the first are the last in their cell, and byte `P_N` is in cell 0. -/
theorem fullWriteWrapsToZero : Obligations.FullWriteWrapsToZero := by
  intro s vs h hlen
  have hcell (k : Nat) (hpos : 1 ≤ k) (hle : k ≤ s.cfg.capacity) :
      readCell (stateAfter (opWrite 0#8 vs) s) (k % s.cfg.capacity) = vs[k]? := by
    simpa using readCell_stateAfter_opWrite h 0#8 vs (k := k) (by omega) (by omega)
  refine ⟨_, runEvents_ready h, ?_, ?_, fun i hpos hlt => ?_⟩
  · rw [stateAfter_cur_toNat h.legal, cursorAfter_opWrite _ _ h.legal.1.1, hlen]
    simp
  · simpa using hcell s.cfg.capacity h.legal.1.1 le_rfl
  · simpa [Nat.mod_eq_of_lt hlt] using hcell i hpos hlt.le

end Sys2Proof.Machine
end

section
/-! The protocol handler: the frame of each event, the complete step, and what a read answers after reset and after a
write transfer (spec/41_protocol_handler.md). -/

namespace Sys2Proof.Machine

variable {s : State} {w : EventWord} {rest : List Input}

/-! The step of a delivered word (R67, R77) -/

/-- Readiness says nothing of the inputs. -/
theorem State.Ready.setInbox (h : s.Ready) (ins : List Input) : State.Ready { s with inbox := ins } :=
  ⟨h.legal, h.unmarked, h.inRange⟩

/-- In a ready state a delivered word is taken and has its effect. -/
theorem step_event_ready (h : s.Ready) (hin : s.inbox = .event w :: rest) :
    step s = .next (effectOf (decode w) { s with inbox := rest }) := by
  rw [step_event hin, exec_ready _ (h.setInbox rest)]

/-- With the Cursor out of range a delivered word faults, whatever it is. -/
theorem step_event_outOfRange (hl : legalConfig s.cfg) (hm : s.mark = none) (hc : s.cfg.capacity ≤ s.cur.toNat)
    (hin : s.inbox = .event w :: rest) : step s = .fault (.addressOverflow s.cur) := by
  rw [step_event hin, exec_eq_handle]
  exact handle_outOfRange hl hm hc

/-! A write transfer and the read after it (R73, R75) -/

/-- A write transfer answers nothing. -/
theorem responsesOf_opWrite (a : Byte) (vs : List Byte) : responsesOf (opWrite a vs) s = [] := by
  have hdata (t : State) : responsesOf (vs.map (received false)) t = [] := by
    induction vs generalizing t with
    | nil => rfl
    | cons v vs ih => rw [List.map_cons, responsesOf_cons, decode_received, ih]; rfl
  rw [opWrite, Transfer.events, responsesOf_cons, decode_received, hdata]
  rfl

/-- A read after a write transfer answers the cell at which the transfer left the Cursor. -/
theorem responsesOf_opWrite_opReadN_one (h : s.Ready) (a : Byte) (vs : List Byte) :
    responsesOf (opWrite a vs ++ opReadN 1) s =
      [cellByte (stateAfter (opWrite a vs) s) ((a.toNat + vs.length) % s.cfg.capacity)] := by
  have hcur : (stateAfter (opWrite a vs) s).cur.toNat = (a.toNat + vs.length) % s.cfg.capacity := by
    rw [stateAfter_cur_toNat h.legal, cursorAfter_opWrite a vs h.legal.1.1]
  rw [responsesOf_append, responsesOf_opWrite, responsesOf_opReadN (stateAfter_ready h), hcur]
  simp

theorem readCell_stateAfter_opReadN (k j : Nat) : readCell (stateAfter (opReadN k) s) j = readCell s j := by
  simp [readCell, cellByte_stateAfter_opReadN]

/-- A write with no data byte stores nothing. -/
theorem readCell_stateAfter_opWrite_nil (a : Byte) (j : Nat) :
    readCell (stateAfter (opWrite a []) s) j = readCell s j :=
  readCell_congr stateAfter_cfg (stateAfter_mem_of_no_data (by simp [opWrite, Transfer.events, decode_received]))

/-! The obligations -/

/-- Settles O11: SPUR has its effect, which clears the output alone. -/
theorem spurIsIgnored : Obligations.SpurIsIgnored :=
  ⟨fun _ w h => exec_ready (.spur w) h, fun _ hw => decode_of_reserved (matches_spur_iff.1 hw)⟩

/-- Settles O13: an event that answers has its effect, and of the effects DATA's alone writes Memory. -/
theorem frameOfNonStoringEvents : Obligations.FrameOfNonStoringEvents := by
  intro s t i hi h
  obtain ⟨-, rfl⟩ := exec_next h
  refine ⟨readCell_effectOf_of_not_data hi, effectOf_cfg, effectOf_inbox, effectOf_mark, ?_⟩
  rintro w rfl
  rfl

/-- Settles O14: a DATA that answers has its effect, which stores at the old Cursor alone. -/
theorem frameOfData : Obligations.FrameOfData := by
  intro s t v h
  obtain ⟨hready, rfl⟩ := exec_next h
  exact ⟨fun j hj => by rw [readCell_effectOf_data hready, if_neg hj], effectOf_cfg, effectOf_inbox, effectOf_mark⟩

/-- Settles O19: the step of a state with an event next. -/
theorem stepRunsDecodedEvent : Obligations.StepRunsDecodedEvent := by
  rintro s w i rest hin rfl
  exact step_event hin

/-- Settles O22: out of range the check faults; in range the word's number fixes its operation, and the step is that
operation's effect on the state with the word taken, whose cells are those of `s`. -/
theorem completeStep : Obligations.CompleteStep := by
  intro s w rest hl hm hin
  refine ⟨fun hc => step_event_outOfRange hl hm (Nat.le_of_not_lt hc) hin, fun hc => ?_⟩
  have hready : s.Ready := ⟨hl, hm, hc⟩
  have hcur := effectOf_cur_toNat (s := { s with inbox := rest }) (i := decode w) hl
  have hcell (j : Nat) : readCell { s with inbox := rest } j = readCell s j := readCell_congr rfl rfl
  have hkeep (hw : ∀ v, decode w ≠ .data v) (j : Nat) :
      readCell (effectOf (decode w) { s with inbox := rest }) j = readCell s j :=
    (readCell_effectOf_of_not_data hw j).trans (hcell j)
  refine ⟨_, step_event_ready hready hin, effectOf_cfg, effectOf_inbox, effectOf_mark.trans hm,
    fun hkind hflag => ?addr, fun hkind hflag => ?data, fun hkind => ?read, fun hkind => ?spur⟩
  case addr =>
    have hw := decode_of_isAddress ⟨hkind, hflag⟩
    rw [hw] at hcur hkeep ⊢
    exact ⟨hkeep (by simp), by rw [hcur, nextCursor, byteOf_toNat], rfl⟩
  case data =>
    rw [decode_of_isStore ⟨hkind, hflag⟩] at hcur ⊢
    exact ⟨fun j => by rw [readCell_effectOf_data (hready.setInbox rest), byteOf_eq_ofNat, hcell], hcur, rfl⟩
  case read =>
    rw [decode_of_isRequest hkind] at hcur hkeep ⊢
    exact ⟨hkeep (by simp), hcur, _, readCell_eq_some_iff.2 ⟨hc, rfl⟩, rfl⟩
  case spur =>
    rw [decode_of_reserved hkind] at hkeep ⊢
    exact ⟨hkeep (by simp), rfl, rfl⟩

/-- Settles O36: the reset state is ready and its Cursor is 0, so READ and DATA act on cell 0. -/
theorem firstAccessUsesCellZero : Obligations.FirstAccessUsesCellZero := by
  intro c x v hl
  have hready := (boot_inv hl).ready
  obtain ⟨t, b, hread, hbyte, hout, hcur, -⟩ := readAnswersByteAtCursor.1 _ x hready
  obtain ⟨t', hdata, hstored, hcur', -⟩ := dataStoresAtCursor.1 _ v hready
  exact ⟨⟨t, b, hread, hbyte, hout, hcur⟩, ⟨t', hdata, hstored, hcur'⟩⟩

/-- Settles O43: the READ answers the cell after the written one; with more than one cell that is another cell, which
the write left as it was. -/
theorem readAfterWriteContinues : Obligations.ReadAfterWriteContinues := by
  intro s a v h
  have hnext : (a.toNat % s.cfg.capacity + 1) % s.cfg.capacity = (a.toNat + [v].length) % s.cfg.capacity :=
    Nat.mod_add_mod ..
  have hbyte : readCell (stateAfter (opWrite a [v]) s) ((a.toNat + [v].length) % s.cfg.capacity) =
      some (cellByte (stateAfter (opWrite a [v]) s) ((a.toNat + [v].length) % s.cfg.capacity)) :=
    readCell_eq_some_iff.2 ⟨by simpa using mod_capacity_lt h.legal _, rfl⟩
  rw [hnext]
  refine ⟨_, _, runEvents_ready h, responsesOf_opWrite_opReadN_one h a [v], ?_, fun hcap => ?_⟩
  · rw [stateAfter_append, readCell_stateAfter_opReadN, hbyte]
  · have hother : (a.toNat + [v].length) % s.cfg.capacity ≠ (a.toNat + 0) % s.cfg.capacity :=
      (add_mod_ne_add_mod a.toNat (by simp) (by simpa using hcap)).symm
    have hkept := readCell_stateAfter_opWrite_append h a v [] ((a.toNat + [v].length) % s.cfg.capacity)
    rw [List.nil_append, List.length_nil, if_neg hother, readCell_stateAfter_opWrite_nil] at hkept
    exact hkept.symm.trans hbyte

/-- Settles O44: the AddressPhase alone sets the Cursor, and the READ after it answers the cell it selects. -/
theorem zeroDataWriteSelectsCell : Obligations.ZeroDataWriteSelectsCell := by
  intro s a h
  have hcur : (stateAfter (opWrite a []) s).cur.toNat = a.toNat % s.cfg.capacity := by
    rw [stateAfter_cur_toNat h.legal, cursorAfter_opWrite a [] h.legal.1.1]; rfl
  have hbyte : readCell s (a.toNat % s.cfg.capacity) =
      some (cellByte (stateAfter (opWrite a []) s) (a.toNat % s.cfg.capacity)) := by
    rw [← readCell_stateAfter_opWrite_nil a]
    exact readCell_eq_some_iff.2 ⟨by simpa using mod_capacity_lt h.legal _, rfl⟩
  exact ⟨_, _, _, runEvents_ready h, hcur, readCell_stateAfter_opWrite_nil a, responsesOf_opWrite a [],
    runEvents_ready h, responsesOf_opWrite_opReadN_one h a [], hbyte⟩

end Sys2Proof.Machine
end

section
/-! Exceptions: what stops an event, the end of a marked run, and the configurations without a step
(spec/60_exceptions.md). -/

namespace Sys2Proof.Machine

variable {s : State} {ws : List EventWord} {r : Fault} {e : RunEnd}

/-! A marked state (R83) -/

theorem exec_marked (i : Instr) (hl : legalConfig s.cfg) (hm : s.mark = some r) : exec i s = .fault r := by
  rw [exec_eq_handle, handle_marked hl hm]

theorem idle_marked (hl : legalConfig s.cfg) (hm : s.mark = some r) : idle s = .fault r := by
  rw [idle, whenRunning, if_pos hl, hm]

/-- A marked state faults again at every step but a restart. -/
theorem step_marked (hl : legalConfig s.cfg) (hm : s.mark = some r)
    (hno : ∀ c rest, s.inbox ≠ .restart c :: rest) : step s = .fault r := by
  rcases hin : s.inbox with _ | ⟨⟨w⟩ | ⟨c⟩, rest⟩
  · rw [step_idle hin, idle_marked hl hm]
  · rw [step_event hin]; exact exec_marked _ hl hm
  · exact absurd hin (hno c rest)

/-! The end of a run -/

/-- Only a legal configuration has a run. -/
theorem legalConfig_of_runEvents_ok (h : runEvents ws s = .ok e) : legalConfig s.cfg := by
  by_contra hl
  rw [runEvents_illegal hl] at h
  cases h

/-- A run from a ready state ends in a ready state. -/
theorem runEvents_ok_ready (h : s.Ready) (hrun : runEvents ws s = .ok e) : e.state.Ready := by
  cases (runEvents_ready h).symm.trans hrun
  exact stateAfter_ready h

/-! The obligations -/

/-- Settles O28: in a ready state an event has its effect, which is ready again. -/
theorem readyStateNeverStops : Obligations.ReadyStateNeverStops :=
  fun _ i h => ⟨_, exec_ready i h, effectOf_ready h⟩

/-- Settles O29: the check before every event faults; a reset state is ready, and a run keeps that. -/
theorem outOfRangeCursorFaults : Obligations.OutOfRangeCursorFaults := by
  refine ⟨fun s hl hm hc => ⟨fun i => ?_, fun w rest => step_event_outOfRange hl hm hc, rfl⟩,
    fun c ws e hl hrun => ?_⟩
  · rw [exec_eq_handle, handle_outOfRange hl hm hc]
  · exact (runEvents_ok_ready (boot_inv hl).ready hrun).inRange

/-- Settles O30: a fault ends the run by setting the mark alone, and the mark stops every later step; an unmarked state
whose Cursor is in range is ready, so its runs end unmarked. -/
theorem faultMarkEndsRun : Obligations.FaultMarkEndsRun := by
  refine ⟨fun c => State.boot_mark c, fun s w ws r h => ?fault,
    fun s r hl hm => ⟨fun i => exec_marked i hl hm, step_marked hl hm⟩, fun s ws e hm hrun hmarked => ?launch⟩
  case fault => exact ⟨_, runEvents_fault h, setMark_mark r s, setMark_mem r s, setMark_cur r s, rfl⟩
  case launch =>
    by_contra hc
    have hready : s.Ready := ⟨legalConfig_of_runEvents_ok hrun, hm, Nat.lt_of_not_le hc⟩
    exact hmarked (runEvents_ok_ready hready hrun).unmarked

/-- Settles O31: each ground contradicts its part of the legal ranges, and the check before every event refuses. -/
theorem illegalConfigurationRefused : Obligations.IllegalConfigurationRefused := by
  intro s i hground
  have hl : ¬ legalConfig s.cfg := by
    rintro ⟨⟨hpos, hle⟩, hseed, hnodup⟩
    rcases hground with hzero | hbig | ⟨cell, hcell, hout⟩ | hdup
    · omega
    · omega
    · exact absurd (hseed cell hcell) hout.not_gt
    · exact hdup hnodup
  rw [exec_eq_handle, handle_illegal hl]

end Sys2Proof.Machine
end

section
/-! Reset and the controller interface: the restart and its configuration, the words of a write transfer, and the
machine's steps over delivered words beside the run of the words (spec/70_reset_and_hazards.md). -/

namespace Sys2Proof.Machine

variable {s : State} {c : Config} {w : EventWord} {ws : List EventWord} {rest : List Input}

/-! The reset state (R97, R100) -/

/-- A seeded cell has its seed as reset value; no offset is seeded twice. -/
theorem resetByte_of_mem_seed (h : legalConfig c) {i : Nat} {b : Byte} (hmem : (i, b) ∈ c.seed) :
    resetByte c i = b := by
  obtain ⟨-, -, hnodup⟩ := h
  obtain ⟨l₁, l₂, hl⟩ := List.append_of_mem hmem
  have hfirst : ∀ e ∈ l₁, e.1 ≠ i := by
    rw [hl, List.map_append, List.map_cons, List.nodup_append] at hnodup
    obtain ⟨-, -, hapart⟩ := hnodup
    exact fun e he => hapart _ (List.mem_map_of_mem he) i List.mem_cons_self
  have hfound : c.seed.lookup i = some b :=
    List.lookup_eq_some_iff.2 ⟨l₁, l₂, hl, fun e he => bne_iff_ne.2 (hfirst e he).symm⟩
  rw [resetByte, hfound, Option.getD_some]

theorem resetByte_of_not_mem_seed {i : Nat} (h : ∀ b, (i, b) ∉ c.seed) : resetByte c i = 0#8 := by
  have hnone : c.seed.lookup i = none := by
    refine List.lookup_eq_none_iff.2 fun ⟨j, b⟩ he => bne_iff_ne.2 ?_
    rintro rfl
    exact h b he
  rw [resetByte, hnone, Option.getD_none]

/-- A cell of the reset state reads as its reset value. -/
theorem readCell_boot (i : Nat) :
    readCell { State.boot c with inbox := rest } i = if i < c.capacity then some (resetByte c i) else none := rfl

theorem step_restart_legal (hl : legalConfig c) (hin : s.inbox = .restart c :: rest) :
    step s = .next { State.boot c with inbox := rest } := by
  rw [step_restart hin, restart, if_pos hl]

theorem step_restart_illegal (hl : ¬ legalConfig c) (hin : s.inbox = .restart c :: rest) :
    step s = .refused .illegalConfiguration := by
  rw [step_restart hin, restart, if_neg hl]

/-- For seeds that are a map the ranges of R100 are all that is checked. -/
theorem legalConfig_iff_of_nodup (h : (c.seed.map Prod.fst).Nodup) :
    legalConfig c ↔ 1 ≤ c.capacity ∧ c.capacity ≤ 256 ∧ ∀ e ∈ c.seed, e.1 < c.capacity := by
  simp only [legalConfig, h, and_true, and_assoc]

/-! The words of a write transfer (R104) -/

/-- The `k`-th word of a write transfer carries its `k`-th byte, with F set for the first alone. -/
theorem events_write_getElem? (bytes : List Byte) (k : Nat) :
    (Transfer.write bytes).events[k]? = bytes[k]?.map (received (k == 0)) := by
  cases bytes with
  | nil => rfl
  | cons b bs =>
    cases k with
    | zero => rfl
    | succ k => exact List.getElem?_map

theorem length_events_write (bytes : List Byte) : (Transfer.write bytes).events.length = bytes.length := by
  cases bytes with
  | nil => rfl
  | cons b bs => simp [Transfer.events]

theorem byteOf_received (isFirst : Bool) (b : Byte) : byteOf (received isFirst b) = b := by
  have hb := b.isLt
  apply BitVec.eq_of_toNat_eq
  cases isFirst with
  | true => rw [byteOf_toNat, received, if_pos rfl, encode_addr_toNat]; omega
  | false => rw [byteOf_toNat, received, if_neg (by decide), encode_data_toNat]; omega

/-! The responses of a run (R113) -/

/-- Each READ, and no other event, responds once. -/
theorem length_responsesOf : (responsesOf ws s).length = ws.countP (fun w => isReadInstr (decode w)) := by
  induction ws generalizing s with
  | nil => rfl
  | cons w ws ih =>
    rw [responsesOf_cons, List.length_append, ih, Option.length_toList, effectOf_out_isSome, List.countP_cons,
      Nat.add_comm]

/-! The steps over delivered words (R103, R105) -/

/-- No event reads or changes the inputs to come. -/
theorem effectOf_setInbox (i : Instr) (ins : List Input) :
    effectOf i { s with inbox := ins } = { effectOf i s with inbox := ins } := by
  cases i <;> rfl

@[simp] theorem stateAfter_inbox : (stateAfter ws s).inbox = s.inbox := by
  induction ws generalizing s with
  | nil => rfl
  | cons w ws ih => rw [stateAfter_cons, ih, effectOf_inbox]

/-- In a ready state the first delivered word has its effect and the others stay to be delivered. -/
theorem step_delivered (h : s.Ready) :
    step { s with inbox := .event w :: rest } = .next { effectOf (decode w) s with inbox := rest } :=
  (step_event_ready (h.setInbox _) rfl).trans (congrArg _ (effectOf_setInbox (s := s) (decode w) rest))

/-- As many steps as words are delivered lead through the effects of the words. -/
theorem steps_delivered (h : s.Ready) :
    steps ws.length { s with inbox := ws.map .event } = .next { stateAfter ws s with inbox := [] } := by
  induction ws generalizing s with
  | nil => rfl
  | cons w ws ih => exact (steps_next (step_delivered h)).trans (ih (effectOf_ready h))

/-- The outputs of those steps are the responses of the words. -/
theorem stepOutputs_delivered (h : s.Ready) :
    stepOutputs ws.length { s with inbox := ws.map .event } = responsesOf ws s := by
  induction ws generalizing s with
  | nil => rfl
  | cons w ws ih =>
    rw [responsesOf_cons, ← ih (effectOf_ready h)]
    exact stepOutputs_next (step_delivered h)

/-! The obligations -/

/-- Settles O5: by the transfer's `k`-th word, an encoded ADDR for `k = 0` and an encoded DATA after it. -/
theorem writeTransferFlagsFirstByte : Obligations.WriteTransferFlagsFirstByte := by
  refine ⟨length_events_write, fun bytes k w hw => ?_⟩
  rw [events_write_getElem?] at hw
  obtain ⟨b, hb, rfl⟩ := Option.map_eq_some_iff.1 hw
  rw [← byteOf_eq_ofNat, byteOf_received]
  refine ⟨?_, ?_, hb⟩
  · rintro rfl
    exact isAddress_encode b
  · intro hk
    rw [beq_false_of_ne hk]
    exact isStore_encode b

/-- Settles O32: the reset state of the configuration, with the inputs behind the restart. -/
theorem restartGivesResetState : Obligations.RestartGivesResetState := by
  intro c rest hl
  refine ⟨_, fun s hin => step_restart_legal hl hin, rfl, rfl, rfl, hl.1.1, rfl, rfl,
    fun i b hmem => ?seeded, fun i hi hmem => ?unseeded⟩
  case seeded =>
    have hi : i < c.capacity := hl.2.1 (i, b) hmem
    rw [readCell_boot, if_pos hi, resetByte_of_mem_seed hl hmem]
  case unseeded => rw [readCell_boot, if_pos hi, resetByte_of_not_mem_seed hmem]

/-- Settles O33: with seeds that are a map the ranges decide whether the configuration is legal. -/
theorem restartChecksConfiguration : Obligations.RestartChecksConfiguration := by
  intro s c rest hin hnodup
  rw [← legalConfig_iff_of_nodup hnodup]
  exact ⟨fun hl => ⟨_, step_restart_legal hl hin⟩, fun hl => step_restart_illegal hl hin⟩

/-- Settles O35: the first step gives the reset state, which is ready with its Cursor at cell 0. -/
theorem restartInMidTransfer : Obligations.RestartInMidTransfer := by
  intro s c w rest hl hin
  have hready := (boot_inv hl).ready
  have hreset : steps 2 s = steps 1 { State.boot c with inbox := .event w :: rest } :=
    steps_next (step_restart_legal hl hin)
  refine ⟨hreset, fun v hv => ⟨{ effectOf (.data v) (State.boot c) with inbox := rest }, ?_, ?_⟩⟩
  · rw [hreset, steps_next (step_delivered hready), hv]; rfl
  · exact (readCell_congr rfl rfl).trans (readCell_effectOf_data hready v 0)

/-- Settles O38: a run from a ready state is its effects and responses, and its end state is ready. -/
theorem runEndsProperly : Obligations.RunEndsProperly :=
  fun _ _ h => ⟨_, runEvents_ready h, (stateAfter_ready h).unmarked, length_responsesOf⟩

/-- Settles O39: the steps lead through the run's effects, which leave the inputs empty as they were. -/
theorem stepsDeliverTheRun : Obligations.StepsDeliverTheRun := by
  intro ws s h hin
  refine ⟨_, runEvents_ready h, ?_⟩
  have hempty : (stateAfter ws s).inbox = [] := stateAfter_inbox.trans hin
  rw [steps_delivered h, ← hempty]

/-- Settles O45: the outputs of the steps are the responses of the run. -/
theorem stepOutputsAreTheResponses : Obligations.StepOutputsAreTheResponses :=
  fun _ _ h _ => ⟨_, runEvents_ready h, stepOutputs_delivered h⟩

/-- Settles O42: the first write leaves its byte in the cell of its address, the second selects that cell and stores
nothing, and the READ answers it. -/
theorem readBackAfterReaddress : Obligations.ReadBackAfterReaddress := by
  intro s a v h
  have hready : (stateAfter (opWrite a [v]) s).Ready := stateAfter_ready h
  have hwritten : readCell (stateAfter (opWrite a [v]) s) (a.toNat % s.cfg.capacity) = some v := by
    simpa using readCell_stateAfter_opWrite h a [v] (k := 0) (by simp) (by simpa using h.legal.1.1)
  have hselected : (stateAfter (opWrite a []) (stateAfter (opWrite a [v]) s)).cur.toNat =
      a.toNat % s.cfg.capacity := by
    rw [stateAfter_cur_toNat hready.legal, cursorAfter_opWrite a [] hready.legal.1.1, stateAfter_cfg]
    rfl
  have hreread := stateAfter_ready (ws := opWrite a []) hready
  rw [← readCell_stateAfter_opWrite_nil a] at hwritten
  obtain ⟨-, hbyte⟩ := readCell_eq_some_iff.1 hwritten
  refine ⟨_, runEvents_ready h, ?_, ?_⟩
  · rw [List.append_assoc, responsesOf_append, responsesOf_opWrite, responsesOf_opWrite_opReadN_one hready,
      stateAfter_cfg, List.length_nil, Nat.add_zero, hbyte, List.nil_append]
  · rw [stateAfter_append, stateAfter_append, stateAfter_cur_toNat hreread.legal, cursorAfter_opReadN 1 hreread.inRange,
      hselected, stateAfter_cfg, stateAfter_cfg]

/-- Settles O16: ADDR has its effect, which overwrites the Cursor without reading it. -/
theorem addrForgetsCursor : Obligations.AddrForgetsCursor := by
  intro s a c h hc
  rw [exec_ready _ h, exec_ready _ hc]
  rfl

/-- Settles O20: the idle step of a running state clears the output alone. -/
theorem idleStepKeepsState : Obligations.IdleStepKeepsState := by
  intro s hl hm hin
  rw [step_idle hin, idle, whenRunning_running hl hm]
  rfl

/-- Settles O21: the placed word is the next input, and with it taken the state is as it was. -/
theorem placedEventRunsNext : Obligations.PlacedEventRunsNext := by
  intro s nbits w hw
  rw [State.withFetchWord, deliverNumber, if_pos (by simpa using hw)]
  exact step_event (deliverNext_inbox _ s)

/-- Settles O34: no cell is listed and none seeded, so each of the 256 cells reads zero. -/
theorem referenceResetState : Obligations.ReferenceResetState := by
  refine ⟨rfl, rfl, rfl, rfl, rfl, rfl, fun i => ?_⟩
  have hzero : resetByte Config.reference i = 0#8 := resetByte_of_not_mem_seed fun _ => List.not_mem_nil
  rw [← hzero]
  exact readCell_boot i

end Sys2Proof.Machine
end

section
/-! The sample words of the spec's decoding table (spec/95_test_vectors.md section 2.1). -/

namespace Sys2Proof.Machine

/-- Settles O6: each word's number picks its row of R51, and the row's field gives its operand. -/
theorem sampleWordsDecode : Obligations.SampleWordsDecode :=
  ⟨decode_of_isAddress ⟨rfl, rfl⟩, decode_of_isStore ⟨rfl, rfl⟩, decode_of_isRequest rfl,
    decode_of_reserved (by decide), decode_of_reserved (by decide)⟩

end Sys2Proof.Machine
end
